-- ==== Sys2Proof/Word.lean ====
section
/-! DEFINITION. The word types of the indexed-palette block quantizer (IPBQ). Everything in the block is unsigned
(spec/00_scope.md R9): a byte is 8 bits, a palette index is 8 bits, a constraint register is 4 bits. Dimensions, counts and
lengths are natural numbers, because the spec's arithmetic on them is on mathematical naturals (R12). -/

namespace Sys2Proof

/-- A byte: 8 bits, bit 7 the most significant (R9). -/
abbrev Byte := BitVec 8

/-- A palette index, type `Idx` of R9: an unsigned value 0..255. -/
abbrev Idx := BitVec 8

/-- A `tc` or `sc` constraint as its 4-bit register holds it (R35, R36). -/
abbrev Nibble := BitVec 4

end Sys2Proof
end

