-- ==== Sys2Proof/Config.lean ====
section
/-! DEFINITION. What an implementation of the block fixes, and the one free value of the model.
`Config.dimBits` is the spec's only open parameter DIM_BITS (spec/00_scope.md R8; log entry 1).
`Config.unwrittenPix` is the content of a PIX cell that the host has not written since the last reset
(spec/10_state.md R53; spec/93_implementation_defined.md U4, treatment "any value"; log entry 2). -/

namespace Sys2Proof

/-- The parameter of one instance of the block. R8: `DIM_BITS >= 9`, default 16. The bound is not built in: it stands in
the model's invariant (Sys2Proof/Safety.lean) and as a hypothesis where a statement needs it. -/
structure Config where
  /-- DIM_BITS: the width in bits of IMG_W, IMG_H, NBLK and ERRIDX (R8, R29). -/
  dimBits : Nat := 16
  deriving DecidableEq, Repr

/-- FREE VALUE (log entry 2). The palette index that PIX cell `(x, y)` holds when the host has not written it since
reset number `epoch`. It has no body: no proof can see a value of it. It depends on nothing else, so the cell keeps one
value until it is written or the block is reset (R47, R62). -/
opaque Config.unwrittenPix (epoch x y : Nat) : Idx

end Sys2Proof
end

