-- ==== Sys2Proof/Syntax.lean ====
section
/-! DEFINITION. The abstract syntax. `Instr` has one constructor per row of spec/opcode_table.json: the two host
commands of format C and the eight internal operations of format U (spec/30_encoding.md R96, R100). `HostAction` is the
notation of a host program (R103), extended by the moves the spec gives the outside world and R103 has no line for. -/

namespace Sys2Proof

/-- The two encodings the block produces (R2); bit 0 of CTRL and bit 3 of the operation selector. -/
inductive Mode where
  /-- 0: sprite encoding. -/
  | sprite
  /-- 1: tileset encoding. -/
  | tileset
  deriving DecidableEq, Repr

/-- The operations of the block. None has an encoded operand but `pack`, whose row leaves the selector's mode bit free
(R100: "PACK is the same operation in both modes"); the block index is the sequencer's BLK, not a field. -/
inductive Instr where
  /-- CONV (R205): start a conversion. -/
  | conv
  /-- CLR (R208): release the results. -/
  | clr
  /-- SPLIT.S (R120). -/
  | splitS
  /-- SPLIT.T (R122). -/
  | splitT
  /-- RESOLVE.S (R141). -/
  | resolveS
  /-- RESOLVE.T (R153). -/
  | resolveT
  /-- PACK (R170); `m` is bit 3 of the selector, which is CTRL.MODE. -/
  | pack (m : Mode)
  /-- ATTR (R185). -/
  | attr
  /-- EMIT.S (R190). -/
  | emitS
  /-- EMIT.T (R191). -/
  | emitT
  deriving DecidableEq, Repr

/-- An encoded operation, in the format it stands in (R90). Formats C and U are different code spaces: the command byte
0x01 is CONV and the selector 0001 is SPLIT.S. -/
inductive Code where
  /-- Format C: the byte written to CMD (R95). -/
  | command (c : BitVec 8)
  /-- Format U: `mode` in bit 3, `phase` in bits 2:0 (R100). -/
  | selector (sel : BitVec 4)
  deriving DecidableEq, Repr

/-- Why a code is no operation. -/
inductive Reject where
  /-- Command codes 0x00 and 0x03..0xFF (R96, R101 (a)): no effect on any state. -/
  | reservedCommand
  /-- Selector `x 000` (R100): the idle position, executes nothing. -/
  | idlePosition
  /-- Selector `0 100` (R100): an ATTR phase in sprite mode, never reached. -/
  | attrInSpriteMode
  /-- Selectors `x 110` and `x 111` (R100): phases that never occur. -/
  | unusedPhase
  deriving DecidableEq, Repr

/-- One move of the outside world. The first four are the lines of a host program (R103; `CMD c` is `wr 0 c`); the
others are reading an output memory (R48, R49), the reset input (R260), and the host leaving the block alone while
it takes one step (R215: how accesses fall between the sequencer's steps is not fixed, so the schedule says it). -/
inductive HostAction where
  /-- WR: write value `v` to register number `n` (R29). Register 0 is CMD. -/
  | wr (n v : Nat)
  /-- PIX: write palette index `v` to cell `(x, y)` (R47). -/
  | pix (x y : Nat) (v : Idx)
  /-- RD: read register number `n` (R29). -/
  | rd (n : Nat)
  /-- Read element `i` of ATTR_OUT (R48). -/
  | rdAttr (i : Nat)
  /-- Read byte `i` of PIX_OUT (R49). -/
  | rdPix (i : Nat)
  /-- Assert reset (R260). -/
  | reset
  /-- No access: the sequencer takes one step. -/
  | wait
  deriving DecidableEq, Repr

end Sys2Proof
end

