-- ==== Sys2Proof/Decode.lean ====
section
/-! DEFINITION. Decoding the two control formats (spec/30_encoding.md R95, R96, R100, R101), total and rejecting by name,
then the encoder, then the host's interface function `decodeTableWord`. -/

namespace Sys2Proof

/-- Format C (R95, R96): the whole byte is the code. -/
def decodeCommand (c : BitVec 8) : Except Reject Instr :=
  if c = 0x01#8 then .ok .conv
  else if c = 0x02#8 then .ok .clr
  else .error .reservedCommand

/-- Bit 3 of a selector: `mode` (R90, format U). -/
def selMode (sel : BitVec 4) : Mode :=
  if sel.getLsbD 3 then .tileset else .sprite

/-- Bits 2:0 of a selector: `phase` (R90, format U). -/
def selPhase (sel : BitVec 4) : BitVec 3 :=
  sel.extractLsb' 0 3

/-- Format U: the map of R100, with the selectors that are no operation rejected by name. -/
def decodeSelector (sel : BitVec 4) : Except Reject Instr :=
  match selMode sel, (selPhase sel).toNat with
  | _, 0 => .error .idlePosition
  | .sprite, 1 => .ok .splitS
  | .tileset, 1 => .ok .splitT
  | .sprite, 2 => .ok .resolveS
  | .tileset, 2 => .ok .resolveT
  | m, 3 => .ok (.pack m)
  | .sprite, 4 => .error .attrInSpriteMode
  | .tileset, 4 => .ok .attr
  | .sprite, 5 => .ok .emitS
  | .tileset, 5 => .ok .emitT
  | _, _ => .error .unusedPhase

/-- The decoder: a code of either format to its operation, or why it is none. -/
def decode (w : Code) : Except Reject Instr :=
  match w with
  | .command c => decodeCommand c
  | .selector sel => decodeSelector sel

/-- The mode bit of a selector. -/
def modeBit (m : Mode) : BitVec 1 :=
  match m with
  | .sprite => 0#1
  | .tileset => 1#1

/-- The encoder: the code of each operation, from the tables of R96 and R100. -/
def encode (i : Instr) : Code :=
  match i with
  | .conv => .command 0x01#8
  | .clr => .command 0x02#8
  | .splitS => .selector 0b0001#4
  | .splitT => .selector 0b1001#4
  | .resolveS => .selector 0b0010#4
  | .resolveT => .selector 0b1010#4
  | .pack m => .selector (modeBit m ++ 0b011#3)
  | .attr => .selector 0b1100#4
  | .emitS => .selector 0b0101#4
  | .emitT => .selector 0b1101#4

/-- The code that a word of the opcode table stands for (log entry 3). A row of width 4 is a selector. A row of width 8
is a command byte. The two spaces overlap, so a selector whose row is given in a whole byte is taken as a selector only
where the byte is no command code. -/
def tableCode (nbits w : Nat) : Option Code :=
  if nbits < 8 then (if w < 16 then some (.selector (BitVec.ofNat 4 w)) else none)
  else if 256 ≤ w then none
  else if w = 1 ∨ w = 2 then some (.command (BitVec.ofNat 8 w))
  else if w < 16 then some (.selector (BitVec.ofNat 4 w))
  else some (.command (BitVec.ofNat 8 w))

/-- What the decoder reads from a word of spec/opcode_table.json (the host's interface). -/
def decodeTableWord (nbits w : Nat) : Option Instr :=
  match tableCode nbits w with
  | none => none
  | some c =>
    match decode c with
    | .ok i => some i
    | .error _ => none

end Sys2Proof
end

