-- ==== Sys2Proof/Machine/State.lean ====
section
/-! DEFINITION. The state of the block as plain data (spec/10_state.md R20: "The state of the block is, and is only"),
the fields of the model's own that stand for the outside world, the reasons a step can stop, and the state after reset.
INVENTORY.md, section State, lists every field with its rule. -/

namespace Sys2Proof.Machine

/-- STATE, the life-cycle flag of R27. -/
inductive Life where
  /-- 0: no conversion has run since reset or CLR. -/
  | idle
  /-- 1: a conversion is executing. -/
  | busy
  /-- 2: the last conversion succeeded. -/
  | done
  /-- 3: the last conversion failed. -/
  | failed
  deriving DecidableEq, Repr

/-- PHASE, the component half of the sequencer position (R25). Codes 6 and 7 never occur and have no constructor. -/
inductive Phase where
  | none
  | split
  | resolve
  | pack
  | attr
  | emit
  deriving DecidableEq, Repr

/-- The eight failure kinds of R230, a closed taxonomy. -/
inductive FailKind where
  /-- Code 1. Never raised by the block (R231). -/
  | decodeFailure
  /-- Code 2 (R232). -/
  | sizeMismatch
  /-- Code 3 (R233). -/
  | tooManyColors
  /-- Code 4 (R234). -/
  | tooManyTiles
  /-- Code 5 (R235). -/
  | colorNotFound
  /-- Code 6 (R236). -/
  | ambiguousForeground
  /-- Code 7 (R237). -/
  | foregroundOutOfRange
  /-- Code 8 (R238). -/
  | colorNotInTable
  deriving DecidableEq, Repr

/-- CT[0..3], the ColorTable: four registers of 8 bits (R22). -/
structure ColorTable where
  c0 : Idx
  c1 : Idx
  c2 : Idx
  c3 : Idx
  deriving DecidableEq, Repr

/-- The machine's state. -/
structure State where
  /-- The open parameter DIM_BITS (R8). Fixed for an instance: no step changes it. -/
  cfg : Config
  /-- STATUS[1:0] (R27, R31). -/
  life : Life
  /-- The sequencer position's PHASE, readable as STATUS[4:2] (R25, R31). -/
  phase : Phase
  /-- The sequencer position's BLK, DIM_BITS bits (R25). -/
  blk : Nat
  /-- ERR[3:0], register 2 (R32): `none` is code 0. -/
  err : Option FailKind
  /-- ERRIDX, register 3, DIM_BITS bits (R33). -/
  errIdx : Nat
  /-- CTRL[3:0], register 4 (R34). Bits 7:4 are reserved, ignore writes and read 0, and so are not held
  (log entry 11). -/
  ctrl : BitVec 4
  /-- TC, register 5, 4 bits (R35). -/
  tc : Nibble
  /-- SC, register 6, 4 bits (R36). -/
  sc : Nibble
  /-- SH[0], register 7 (R23). -/
  sh0 : Idx
  /-- SH[1], register 8 (R23). -/
  sh1 : Idx
  /-- SH[2], register 9 (R23). -/
  sh2 : Idx
  /-- IMG_W, register 10, DIM_BITS bits (R37). -/
  imgW : Nat
  /-- IMG_H, register 11, DIM_BITS bits (R37). -/
  imgH : Nat
  /-- NBLK, register 12, DIM_BITS bits (R38). -/
  nblk : Nat
  /-- BPB, register 13, DIM_BITS + 2 bits (R39). -/
  bpb : Nat
  /-- CT[0..3], registers 14 to 17 (R22, R40). -/
  ct : ColorTable
  /-- FG, register 18 (R24, R40). -/
  fg : Idx
  /-- ATTRLEN, register 19, 9 bits (R41). -/
  attrLen : Nat
  /-- PIXLEN, register 20, 2 * DIM_BITS bits (R41). -/
  pixLen : Nat
  /-- SEEN, the working set of RESOLVE.S (R45). -/
  seen : List Idx
  /-- TSET, the working set of RESOLVE.T (R46). -/
  tset : List Idx
  /-- NS, the part of TSET that is not shared (R46). -/
  ns : List Idx
  /-- PIX (R47): the cells the host has written since reset, by key (Machine/Ops.lean `pixKey`), in canonical form. -/
  pix : List Host.Cell
  /-- ATTR_OUT (R48). -/
  attrOut : List Byte
  /-- PIX_OUT (R49). -/
  pixOut : List Byte
  /-- ATTR_STAGE (R51). -/
  attrStage : List Byte
  /-- PIX_STAGE (R51). -/
  pixStage : List Byte
  /-- The model's own (log entry 2): how many resets PIX has seen; the free value of an unwritten cell depends on it. -/
  pixEpoch : Nat
  /-- The model's own (log entry 4): the moves the outside world will make, in order. -/
  host : List HostAction
  /-- The model's own (log entry 4): what the last read of the host returned. -/
  busRead : Option Nat
  deriving DecidableEq, Repr

/-- A step that cannot go on. -/
inductive Fault where
  /-- The sequencer is BUSY at a selector that R100 says is never reached (`0 100`, and by the encoding `x 110` and
  `x 111`). Raised by the sequencer's turn (Machine/Turns.lean). Safe: the machine stops; no reachable state does this
  (log entry 9). -/
  | unreachableSelector
  deriving DecidableEq, Repr

/-- A move the model does not offer. -/
inductive Refusal where
  /-- An instruction with no meaning yet. No arm of exec answers it. Safe. -/
  | notModelled (mnemonic : String)
  /-- CONV with IMG_W = 0 or IMG_H = 0: "a conversion started with either equal to 0 has no meaning in this spec" (R37;
  spec/93_implementation_defined.md U3, treatment refuse). Raised by CONV. Safe. -/
  | emptyImage
  /-- CONV in tileset mode with SH[0], SH[1], SH[2] not pairwise distinct (R23, R265; U2, treatment refuse). Raised by
  CONV. Safe. -/
  | sharedNotDistinct
  /-- A host write to PIX while BUSY (R263 (a); U5, treatment refuse: "the host has no such move"). Raised by the host's
  turn. Unsafe as a picture of a host that breaks its duty (log entry 6). -/
  | pixWriteWhileBusy
  /-- A host read of an output memory past its length (U6, treatment refuse; log entry 8). Raised by the host's turn. Safe. -/
  | readPastEnd
  deriving DecidableEq, Repr

/-- The state right after reset (R53): every register 0, the position `(NONE, 0)`, every set and memory empty, no cell
of PIX written. DIM_BITS is at its default 16 (R8; log entry 1). -/
def State.reset : State where
  cfg := {}
  life := .idle
  phase := .none
  blk := 0
  err := none
  errIdx := 0
  ctrl := 0
  tc := 0
  sc := 0
  sh0 := 0
  sh1 := 0
  sh2 := 0
  imgW := 0
  imgH := 0
  nblk := 0
  bpb := 0
  ct := ⟨0, 0, 0, 0⟩
  fg := 0
  attrLen := 0
  pixLen := 0
  seen := []
  tset := []
  ns := []
  pix := []
  attrOut := []
  pixOut := []
  attrStage := []
  pixStage := []
  pixEpoch := 0
  host := []
  busRead := none

end Sys2Proof.Machine
end

