-- ==== Sys2Proof/Machine/Flags.lean ====
section
/-! DEFINITION. The flag and code computations: the codes of STATE, PHASE and the failure kinds, the bytes STATUS and ERR
that the host reads, and the bits of CTRL (spec/10_state.md R25, R27, R31, R32, R34; spec/60_exceptions.md R230). -/

namespace Sys2Proof.Machine

/-- STATE's 2-bit code (R27). -/
def Life.code (l : Life) : BitVec 2 :=
  match l with
  | .idle => 0
  | .busy => 1
  | .done => 2
  | .failed => 3

/-- PHASE's 3-bit code (R25). -/
def Phase.code (p : Phase) : BitVec 3 :=
  match p with
  | .none => 0
  | .split => 1
  | .resolve => 2
  | .pack => 3
  | .attr => 4
  | .emit => 5

/-- The failure code in ERR[3:0] (R230). -/
def FailKind.code (k : FailKind) : BitVec 4 :=
  match k with
  | .decodeFailure => 1
  | .sizeMismatch => 2
  | .tooManyColors => 3
  | .tooManyTiles => 4
  | .colorNotFound => 5
  | .ambiguousForeground => 6
  | .foregroundOutOfRange => 7
  | .colorNotInTable => 8

/-- The component that raises each kind (R230, column "phase in STATUS"). `decodeFailure` is raised by none. -/
def FailKind.phase (k : FailKind) : Phase :=
  match k with
  | .decodeFailure => .none
  | .sizeMismatch | .tooManyTiles => .split
  | .tooManyColors | .colorNotFound | .ambiguousForeground | .foregroundOutOfRange => .resolve
  | .colorNotInTable => .pack

/-- The kinds that name a block (R230, column `ERRIDX`). -/
def FailKind.perBlock (k : FailKind) : Bool :=
  match k with
  | .ambiguousForeground | .foregroundOutOfRange | .colorNotInTable => true
  | .decodeFailure | .sizeMismatch | .tooManyColors | .tooManyTiles | .colorNotFound => false

/-- STATUS (R31): bits 1:0 STATE, bits 4:2 PHASE, bits 7:5 read 0. -/
def statusByte (s : State) : Byte :=
  0#3 ++ s.phase.code ++ s.life.code

/-- ERR (R32): bits 3:0 the failure code, bits 7:4 read 0. -/
def errByte (s : State) : Byte :=
  match s.err with
  | none => 0
  | some k => 0#4 ++ k.code

/-- CTRL as the host reads it (R34): bits 7:4 read 0. -/
def ctrlByte (s : State) : Byte :=
  0#4 ++ s.ctrl

/-- CTRL.MODE, bit 0 (R34). -/
def State.mode (s : State) : Mode :=
  if s.ctrl.getLsbD 0 then .tileset else .sprite

/-- CTRL.ATTR_EN, bit 1 (R34). -/
def State.attrEn (s : State) : Bool := s.ctrl.getLsbD 1

/-- CTRL.TC_EN, bit 2 (R34). -/
def State.tcEn (s : State) : Bool := s.ctrl.getLsbD 2

/-- CTRL.SC_EN, bit 3 (R34). -/
def State.scEn (s : State) : Bool := s.ctrl.getLsbD 3

/-- The operation selector `sel = CTRL.MODE :: PHASE` (spec/30_encoding.md R100). -/
def selector (s : State) : BitVec 4 :=
  modeBit s.mode ++ s.phase.code

/-- CTRL with its MODE bit set to `m`. -/
def withMode (ctrl : BitVec 4) (m : Mode) : BitVec 4 :=
  match m with
  | .sprite => ctrl &&& 0b1110#4
  | .tileset => ctrl ||| 0b0001#4

/-- The phase of a 3-bit code; codes 6 and 7 never occur (R25) and give the idle phase. -/
def phaseOf (p : BitVec 3) : Phase :=
  match p.toNat with
  | 1 => .split
  | 2 => .resolve
  | 3 => .pack
  | 4 => .attr
  | 5 => .emit
  | _ => .none

end Sys2Proof.Machine
end

