-- ==== Sys2Proof/Machine/Seq.lean ====
section
/-! DEFINITION. The sequence primitives of spec/00_scope.md R11, over lists of palette indices. -/

namespace Sys2Proof.Machine

/-- `contains(s, v)` (R11). -/
def contains (s : List Idx) (v : Idx) : Bool :=
  s.any fun a => a == v

/-- `index_of(s, v)` (R11): the LOWEST position of `v`. R11 leaves it undefined when `v` is absent; the model asks for it
only behind `contains`, and there the answer is below `len(s)`. -/
def indexOf (s : List Idx) (v : Idx) : Nat :=
  match s with
  | [] => 0
  | a :: l => if a = v then 0 else indexOf l v + 1

/-- `remove_first(s, v)` (R11): the element at `index_of(s, v)` deleted, the later ones moved down. -/
def removeFirst (s : List Idx) (v : Idx) : List Idx :=
  match s with
  | [] => []
  | a :: l => if a = v then l else a :: removeFirst l v

/-- `insert_at(s, i, v)` (R11): `s[0..i-1] ++ [v] ++ s[i..]`. -/
def insertAt (s : List Idx) (i : Nat) (v : Idx) : List Idx :=
  s.take i ++ [v] ++ s.drop i

/-- `v` put before the first element of `s` that is not below it. -/
def insertAsc (v : Idx) (s : List Idx) : List Idx :=
  match s with
  | [] => [v]
  | a :: l => if v.toNat ≤ a.toNat then v :: a :: l else a :: insertAsc v l

/-- `sort_asc(s)` (R11): the permutation of `s` in non-decreasing unsigned order. -/
def sortAsc (s : List Idx) : List Idx :=
  match s with
  | [] => []
  | a :: l => insertAsc a (sortAsc l)

/-- `SEEN ++ [p]` when `p` is not in it (the loop body of R141 S1 and R153 T1). -/
def addNew (acc : List Idx) (p : Idx) : List Idx :=
  if contains acc p then acc else acc ++ [p]

/-- The distinct indices of `ps` in first-occurrence order (R142, R154). -/
@[irreducible] def distinct (ps : List Idx) : List Idx :=
  ps.foldl addNew []

end Sys2Proof.Machine
end

