-- ==== Sys2Proof/Machine/Operands.lean ====
section
/-! DEFINITION. How each operand of the operations is obtained (spec/30_encoding.md R94): the constraints, the block
rectangles (spec/40_frame_splitter.md R121, R123), the ColorTable as a sequence, and the code of a pixel (R92). -/

namespace Sys2Proof.Machine

/-- `tc` (R94 (a)): TC zero-extended, present when TC_EN = 1. -/
def tcOperand (s : State) : Option Idx :=
  if s.tcEn then some (s.tc.zeroExtend 8) else none

/-- `sc` (R94 (a)): SC zero-extended, present when SC_EN = 1. -/
def scOperand (s : State) : Option Idx :=
  if s.scEn then some (s.sc.zeroExtend 8) else none

/-- A block: origin, width, height (the source's Block, spec/00_scope.md section 7). -/
structure Block where
  x0 : Nat
  y0 : Nat
  w : Nat
  h : Nat
  deriving DecidableEq, Repr

/-- `Block_S(k)` (R121): a strip 12 wide and as high as the image (R125). -/
def blockS (imgH k : Nat) : Block where
  x0 := 12 * k
  y0 := 0
  w := 12
  h := imgH

/-- `Block_T(k)` (R123): tile `k` in row-major tile-scan order, with `TCOLS = IMG_W div 4`. -/
def blockT (imgW k : Nat) : Block where
  x0 := 4 * (k % (imgW / 4))
  y0 := 8 * (k / (imgW / 4))
  w := 4
  h := 8

/-- The block rectangle of `PACK k` (R170). -/
def blockOf (m : Mode) (imgW imgH k : Nat) : Block :=
  match m with
  | .sprite => blockS imgH k
  | .tileset => blockT imgW k

/-- CT as a sequence, position 0 first (R22). -/
def ColorTable.toList (t : ColorTable) : List Idx := [t.c0, t.c1, t.c2, t.c3]

/-- `CT <- t` for a sequence of 4 (R10). The resolver only builds sequences of 4 (R141: "a local sequence of exactly 4
palette indices"). -/
def ColorTable.ofList (t : List Idx) : ColorTable where
  c0 := t.getD 0 0
  c1 := t.getD 1 0
  c2 := t.getD 2 0
  c3 := t.getD 3 0

/-- `CT[i]` (R10), `i` a 2-bit code. -/
def ColorTable.get (t : ColorTable) (i : BitVec 2) : Idx :=
  t.toList.getD i.toNat 0

/-- The code of pixel `p` under `CT` (R92, R94 (d), R173): `index_of(CT, p) & 3` as a byte, none when `p` is not in
`CT`. -/
def pixelCode (t : ColorTable) (p : Idx) : Option Byte :=
  if contains t.toList p then some (BitVec.ofNat 8 (indexOf t.toList p) &&& 3#8) else none

/-- `OUT = ATTR_OUT ++ PIX_OUT`, a view and not state (R50, R78, R192). -/
def State.out (s : State) : List Byte := s.attrOut ++ s.pixOut

end Sys2Proof.Machine
end

