-- ==== Sys2Proof/Machine/Ops.lean ====
section
/-! DEFINITION. The named operations over memory and registers: PIX and its canonical form, pixel reads, appending to
a staging memory, clearing results, entering a failure (`raise`, spec/60_exceptions.md R240) and reset (R260). There is no
return from a failure (R242): FAILED is left only by CONV, CLR or reset, which stand in Machine/Command.lean and here. -/

namespace Sys2Proof.Machine

/-- The keys of a cell list rise strictly from above `lo`. -/
def Memory.above (lo : Nat) (m : List Host.Cell) : Bool :=
  match m with
  | [] => true
  | c :: l => decide (lo < c.1) && Memory.above c.1 l

/-- The canonical form of a memory: keys strictly rising. An unlisted address reads as nothing (`Memory.read` answers
none), so no entry can equal what an unlisted address reads as (log entry 2). -/
def Memory.wf (m : List Host.Cell) : Bool :=
  match m with
  | [] => true
  | c :: l => Memory.above c.1 l

/-- The byte listed at `a`, if one is. -/
def Memory.read (m : List Host.Cell) (a : Nat) : Option Byte :=
  match m with
  | [] => none
  | c :: l => if c.1 = a then some c.2 else Memory.read l a

/-- Store `v` at `a`, keeping the canonical form. -/
def Memory.write (m : List Host.Cell) (a : Nat) (v : Byte) : List Host.Cell :=
  match m with
  | [] => [(a, v)]
  | c :: l =>
    if a < c.1 then (a, v) :: c :: l
    else if a = c.1 then (a, v) :: l
    else c :: Memory.write l a v

/-- The key of PIX cell `(x, y)`. PIX is addressed by `(x, y)` only (spec/93_implementation_defined.md U8), so the key
is a pairing that does not depend on IMG_W; which pairing cannot be observed (log entry 5). -/
def pixKey (x y : Nat) : Nat := Nat.pair x y

/-- `PixRead(x, y)` (R10, R47, R61): the index the host wrote, or the free value of an unwritten cell (U4). -/
def pixRead (s : State) (x y : Nat) : Idx :=
  (Memory.read s.pix (pixKey x y)).getD (Config.unwrittenPix s.pixEpoch x y)

/-- The linear address of a pixel (R61): `addr(x, y) = y * IMG_W + x`. -/
def pixAddr (s : State) (x y : Nat) : Nat := y * s.imgW + x

/-- `MemRead(addr, 1)` (R10, R61): the cell at a linear address. -/
def memRead (s : State) (addr : Nat) : Idx := pixRead s (addr % s.imgW) (addr / s.imgW)

/-- A host write to PIX (R47). A cell no image can have (a coordinate of more than DIM_BITS bits) does not exist, and
the write is ignored (U7). -/
def pixWrite (s : State) (x y : Nat) (v : Idx) : State :=
  if x < 2 ^ s.cfg.dimBits ∧ y < 2 ^ s.cfg.dimBits then { s with pix := Memory.write s.pix (pixKey x y) v } else s

/-- The pixels of a block in the order of R141 and R153: rows top to bottom, each left to right. -/
def blockPixels (read : Nat → Nat → Idx) (b : Block) : List Idx :=
  (List.range b.h).flatMap fun r => (List.range b.w).map fun i => read (b.x0 + i) (b.y0 + r)

/-- `Append(PIX_STAGE, v)` for each byte in turn (R68). -/
def appendPix (s : State) (vs : List Byte) : State := { s with pixStage := s.pixStage ++ vs }

/-- `Append(ATTR_STAGE, v)` (R68). -/
def appendAttr (s : State) (v : Byte) : State := { s with attrStage := s.attrStage ++ [v] }

/-- `pc <- (phase, k)` (R10, R25). -/
def setPos (s : State) (p : Phase) (k : Nat) : State := { s with phase := p, blk := k }

/-- What CONV, CLR and a failure clear alike (R205, R208, R240): result registers, working registers and sets, staging
and output memories. -/
def clearResults (s : State) : State :=
  { s with
    nblk := 0, bpb := 0, ct := ⟨0, 0, 0, 0⟩, fg := 0, attrLen := 0, pixLen := 0
    attrOut := [], pixOut := [], attrStage := [], pixStage := [], seen := [], tset := [], ns := [] }

/-- `raise Kind(idx)` (R240): ERR and ERRIDX record it, PHASE stays, BLK returns to 0, everything staged or computed is
discarded, STATE becomes FAILED. RW registers and PIX are unchanged. -/
def raise (kind : FailKind) (idx : Nat) (s : State) : State :=
  { clearResults s with err := some kind, errIdx := idx, blk := 0, life := .failed }

/-- Reset (R53, R260): every piece of state but PIX at its reset value, and PIX unspecified: no cell counts as written,
and the free values of unwritten cells are those of the next epoch (log entry 2). The instance's DIM_BITS and the outside
world's own fields stay. -/
def resetBlock (s : State) : State :=
  { State.reset with cfg := s.cfg, host := s.host, busRead := s.busRead, pixEpoch := s.pixEpoch + 1 }

end Sys2Proof.Machine
end

