-- ==== Sys2Proof/Machine/Attribute.lean ====
section
/-! DEFINITION. The Tile Attribute Deriver (spec/43_tile_attribute.md): ATTR (R185). -/

namespace Sys2Proof.Machine

/-- The attribute byte (R93, R185): `FG + 8` in 8 bits. -/
def attrByte (fg : Idx) : Byte := fg + 8#8

/-- The next position of `ATTR k` (R185, R207). -/
def afterAttr (s : State) : State :=
  if s.blk + 1 < s.nblk then setPos s .resolve (s.blk + 1) else setPos s .emit 0

/-- ATTR at block BLK (R185). It cannot fail (R187), and runs whatever ATTR_EN is (R188). -/
def execAttr (s : State) : Host.Outcome State Fault Refusal :=
  .next (afterAttr (appendAttr s (attrByte s.fg)))

end Sys2Proof.Machine
end

