-- ==== Sys2Proof/Machine/Command.lean ====
section
/-! DEFINITION. The host commands (spec/45_host_commands.md): CONV (R205) and CLR (R208), and what the model refuses a
CONV for (spec/93_implementation_defined.md U2, U3). -/

namespace Sys2Proof.Machine

/-- The preconditions of CONV that the model refuses without (R205, R265; log entry 7): both dimensions at least 1 (U3),
and in tileset mode the shared colours pairwise distinct (U2). -/
def convRefusal (s : State) : Option Refusal :=
  if s.imgW = 0 ∨ s.imgH = 0 then some .emptyImage
  else if s.mode = .tileset ∧ (s.sh0 = s.sh1 ∨ s.sh0 = s.sh2 ∨ s.sh1 = s.sh2) then some .sharedNotDistinct
  else none

/-- The block after CONV's own clearing (R205): BUSY at `(SPLIT, 0)`. -/
def startConversion (s : State) : State :=
  setPos { clearResults s with err := none, errIdx := 0, life := .busy } .split 0

/-- The block after CLR (R208): IDLE at `(NONE, 0)`. -/
def releaseResults (s : State) : State :=
  setPos { clearResults s with err := none, errIdx := 0, life := .idle } .none 0

/-- CONV (R205): ignored when BUSY (R210), refused where the spec gives a conversion no meaning, else it starts. -/
def execConv (s : State) : Host.Outcome State Fault Refusal :=
  if s.life = .busy then .next s
  else
    match convRefusal s with
    | some r => .refused r
    | none => .next (startConversion s)

/-- CLR (R208): ignored when BUSY (R210), else it clears. -/
def execClr (s : State) : Host.Outcome State Fault Refusal :=
  if s.life = .busy then .next s else .next (releaseResults s)

end Sys2Proof.Machine
end

