-- ==== Sys2Proof/Machine/Emitter.lean ====
section
/-! DEFINITION. The Encoder Output (spec/44_encoder_output.md): EMIT.S (R190) and EMIT.T (R191). -/

namespace Sys2Proof.Machine

/-- The commit (R79, R190, R191, R194): both output memories, both lengths, DONE and the idle position, together. The
staging memories keep their bytes: neither rule empties them, and CONV does (R205; log entry 12). -/
def commit (attrBytes : List Byte) (s : State) : State :=
  setPos
    { s with
      pixOut := s.pixStage
      attrOut := attrBytes
      pixLen := s.pixStage.length
      attrLen := attrBytes.length
      life := .done }
    .none 0

/-- EMIT.S (R190): no attribute bytes. -/
def execEmitS (s : State) : Host.Outcome State Fault Refusal :=
  .next (commit [] s)

/-- EMIT.T (R191): the staged attribute bytes when ATTR_EN = 1, else none. -/
def execEmitT (s : State) : Host.Outcome State Fault Refusal :=
  .next (commit (if s.attrEn then s.attrStage else []) s)

end Sys2Proof.Machine
end

