-- ==== Sys2Proof/Machine/Packer.lean ====
section
/-! DEFINITION. The Pixel Packer (spec/42_pixel_packer.md): PACK (R170). -/

namespace Sys2Proof.Machine

/-- Lane `i` of a packed byte (R172): the code shifted left by `6 - 2i`. -/
def lane (c : Byte) (i : Nat) : Byte := c <<< (6 - 2 * i)

/-- One packed byte of four pixels, leftmost first (R91, R170, R172); none when one is not in `CT` (R174). -/
def packGroup (t : ColorTable) (p0 p1 p2 p3 : Idx) : Option Byte :=
  match pixelCode t p0, pixelCode t p1, pixelCode t p2, pixelCode t p3 with
  | some a, some b, some c, some d => some (0#8 ||| lane a 0 ||| lane b 1 ||| lane c 2 ||| lane d 3)
  | _, _, _, _ => none

/-- The 2-bit code in lane `i` of a packed byte (R91): `byte[7 - 2i : 6 - 2i]`. -/
def laneOf (v : Byte) (i : Nat) : BitVec 2 := v.extractLsb' (6 - 2 * i) 2

/-- The byte of group `g` of row `r` of a block (R170, R171). -/
def packAt (read : Nat → Nat → Idx) (t : ColorTable) (b : Block) (r g : Nat) : Option Byte :=
  packGroup t (read (b.x0 + 4 * g) (b.y0 + r)) (read (b.x0 + 4 * g + 1) (b.y0 + r))
    (read (b.x0 + 4 * g + 2) (b.y0 + r)) (read (b.x0 + 4 * g + 3) (b.y0 + r))

/-- The groups of a block in packing order (R171): rows top to bottom, groups left to right. -/
def blockGroups (b : Block) : List (Nat × Nat) :=
  (List.range b.h).flatMap fun r => (List.range (b.w / 4)).map fun g => (r, g)

/-- Every byte in turn, or none as soon as one is missing. -/
def collectBytes (f : Nat × Nat → Option Byte) (gs : List (Nat × Nat)) : Option (List Byte) :=
  match gs with
  | [] => some []
  | g :: l =>
    match f g with
    | none => none
    | some v =>
      match collectBytes f l with
      | none => none
      | some vs => some (v :: vs)

/-- PACK as a function of a block and its ColorTable (R170, R211): the PackedBlock, or none for ColorNotInTable. -/
def packBlock (read : Nat → Nat → Idx) (t : ColorTable) (b : Block) : Option (List Byte) :=
  collectBytes (fun rg => packAt read t b rg.1 rg.2) (blockGroups b)

/-- The next position of `PACK k` (spec/45_host_commands.md R206, R207). -/
def afterPack (m : Mode) (s : State) : State :=
  match m with
  | .sprite => if s.blk + 1 < s.nblk then setPos s .pack (s.blk + 1) else setPos s .emit 0
  | .tileset => setPos s .attr s.blk

/-- PACK at block BLK (R170). `m` is the selector's mode bit, which the sequencer takes from CTRL.MODE (R100; log
entry 10). -/
def execPack (m : Mode) (s : State) : Host.Outcome State Fault Refusal :=
  .next (match packBlock (pixRead s) s.ct (blockOf m s.imgW s.imgH s.blk) with
    | none => raise .colorNotInTable s.blk s
    | some bytes => afterPack m (appendPix s bytes))

end Sys2Proof.Machine
end

