-- ==== Sys2Proof/Machine/Resolver.lean ====
section
/-! DEFINITION. The Palette Resolver (spec/41_palette_resolver.md): RESOLVE.S (R141) and RESOLVE.T (R153). The reordering
is the literal sequence of `sort_asc`, `remove_first` and `insert_at`, as R152 requires. -/

namespace Sys2Proof.Machine

/-- Step S1's padding (R144): palette index 0 up to 4 entries. -/
def padSeen (colours : List Idx) : List Idx :=
  colours ++ List.replicate (4 - colours.length) 0

/-- R146: both constraints given and equal. -/
def coincide (tc sc : Option Idx) : Bool :=
  match tc, sc with
  | some a, some b => a == b
  | _, _ => false

/-- Steps S3 and S4 (R147, R148): a given constraint must be in the table and is moved to position `pos`; without one
the step is skipped. -/
def moveTo (pos : Nat) (c : Option Idx) (t : List Idx) : Except FailKind (List Idx) :=
  match c with
  | none => .ok t
  | some v => if contains t v then .ok (insertAt (removeFirst t v) pos v) else .error .colorNotFound

/-- RESOLVE.S as a function of the distinct colours and the constraints (R141, R211): the checks in the order of R239. -/
def resolveSprite (colours : List Idx) (tc sc : Option Idx) : Except FailKind (List Idx) :=
  if colours.length > 4 then .error .tooManyColors
  else if coincide tc sc then .error .colorNotFound
  else
    match moveTo 0 tc (sortAsc (padSeen colours)) with
    | .error k => .error k
    | .ok t => moveTo 2 sc t

/-- All pixels of the image, row-major (R142): the block that is the whole image. -/
def imageBlock (w h : Nat) : Block where
  x0 := 0
  y0 := 0
  w := w
  h := h

/-- SEEN after step S1's collection (R142). -/
def imageColours (s : State) : List Idx :=
  distinct (blockPixels (pixRead s) (imageBlock s.imgW s.imgH))

/-- RESOLVE.S (R141). -/
def execResolveS (s : State) : Host.Outcome State Fault Refusal :=
  .next (match resolveSprite (imageColours s) (tcOperand s) (scOperand s) with
    | .error k => raise k 0 s
    | .ok t => setPos { s with seen := padSeen (imageColours s), ct := ColorTable.ofList t } .pack 0)

/-- TSET of tile `k` (R154). -/
def tileColours (s : State) (k : Nat) : List Idx :=
  distinct (blockPixels (pixRead s) (blockT s.imgW k))

/-- NS (R155): the colours that are not shared. -/
def nonShared (sh0 sh1 sh2 : Idx) (tset : List Idx) : List Idx :=
  tset.filter fun p => p != sh0 && p != sh1 && p != sh2

/-- RESOLVE.T as a function of NS (R155, R156, R157): the foreground colour or a failure. -/
def resolveTile (ns : List Idx) : Except FailKind Idx :=
  if ns.length > 1 then .error .ambiguousForeground
  else if (ns.headD 0).toNat > 7 then .error .foregroundOutOfRange
  else .ok (ns.headD 0)

/-- RESOLVE.T at block BLK (R153). -/
def execResolveT (s : State) : Host.Outcome State Fault Refusal :=
  .next (match resolveTile (nonShared s.sh0 s.sh1 s.sh2 (tileColours s s.blk)) with
    | .error k => raise k s.blk s
    | .ok fg =>
      setPos
        { s with
          tset := tileColours s s.blk
          ns := nonShared s.sh0 s.sh1 s.sh2 (tileColours s s.blk)
          ct := ⟨s.sh0, s.sh1, s.sh2, fg⟩
          fg := fg }
        .pack s.blk)

end Sys2Proof.Machine
end

