-- ==== Sys2Proof/Machine/Splitter.lean ====
section
/-! DEFINITION. The Frame Splitter (spec/40_frame_splitter.md): SPLIT.S (R120) and SPLIT.T (R122). -/

namespace Sys2Proof.Machine

/-- SPLIT.S as a function of the dimensions (R120, R211): `(NBLK, BPB)` or a failure. -/
def splitSprite (w h : Nat) : Except FailKind (Nat × Nat) :=
  if w % 12 ≠ 0 ∨ h % 21 ≠ 0 then .error .sizeMismatch
  else .ok (w / 12, 3 * h)

/-- SPLIT.T as a function of the dimensions (R122, R211): the size check before the tile count. -/
def splitTileset (w h : Nat) : Except FailKind (Nat × Nat) :=
  if w % 4 ≠ 0 ∨ h % 8 ≠ 0 then .error .sizeMismatch
  else if w / 4 * (h / 8) > 256 then .error .tooManyTiles
  else .ok (w / 4 * (h / 8), 8)

/-- What a splitter's result does to the state: NBLK, BPB and `pc <- (RESOLVE, 0)`, or the failure with index 0. -/
def storeSplit (r : Except FailKind (Nat × Nat)) (s : State) : State :=
  match r with
  | .error k => raise k 0 s
  | .ok nb => setPos { s with nblk := nb.1, bpb := nb.2 } .resolve 0

/-- SPLIT.S (R120). -/
def execSplitS (s : State) : Host.Outcome State Fault Refusal :=
  .next (storeSplit (splitSprite s.imgW s.imgH) s)

/-- SPLIT.T (R122). -/
def execSplitT (s : State) : Host.Outcome State Fault Refusal :=
  .next (storeSplit (splitTileset s.imgW s.imgH) s)

end Sys2Proof.Machine
end

