-- ==== Sys2Proof/Machine/Dispatch.lean ====
section
/-! DEFINITION. One arm per constructor of Instr, each one direct call of its meaning. -/

namespace Sys2Proof.Machine

def exec (i : Instr) (s : State) : Host.Outcome State Fault Refusal :=
  match i with
  | .conv => Sys2Proof.Machine.execConv s
  | .clr => Sys2Proof.Machine.execClr s
  | .splitS => Sys2Proof.Machine.execSplitS s
  | .splitT => Sys2Proof.Machine.execSplitT s
  | .resolveS => Sys2Proof.Machine.execResolveS s
  | .resolveT => Sys2Proof.Machine.execResolveT s
  | .pack m => Sys2Proof.Machine.execPack m s
  | .attr => Sys2Proof.Machine.execAttr s
  | .emitS => Sys2Proof.Machine.execEmitS s
  | .emitT => Sys2Proof.Machine.execEmitT s

end Sys2Proof.Machine
end

