-- ==== Sys2Proof/Machine/RegFile.lean ====
section
/-! DEFINITION. The register file's table (spec/10_state.md R29): width and access class of each register number. -/

namespace Sys2Proof.Machine

/-- Access classes of R29. -/
inductive Access where
  /-- Host write only; reads return 0. -/
  | w
  /-- Host read only; writes are ignored. -/
  | r
  /-- Host read and write. -/
  | rw
  /-- Register numbers 21 and above do not exist: a read returns 0, a write is ignored. -/
  | absent
  deriving DecidableEq, Repr

/-- The access column of R29. -/
def regAccess (n : Nat) : Access :=
  if n = 0 then .w
  else if n ≤ 3 then .r
  else if n ≤ 11 then .rw
  else if n ≤ 20 then .r
  else .absent

/-- The width column of R29, in bits. -/
def regWidth (c : Config) (n : Nat) : Nat :=
  match n with
  | 0 | 1 | 2 | 4 | 7 | 8 | 9 | 14 | 15 | 16 | 17 | 18 => 8
  | 5 | 6 => 4
  | 3 | 10 | 11 | 12 => c.dimBits
  | 13 => c.dimBits + 2
  | 19 => 9
  | 20 => 2 * c.dimBits
  | _ => 0

end Sys2Proof.Machine
end

