-- ==== Sys2Proof/Machine/HostBus.lean ====
section
/-! DEFINITION. The host's accesses to the register file (spec/10_state.md R29 to R43), apart from the commands that a
write to CMD executes (Machine/Turns.lean). -/

namespace Sys2Proof.Machine

/-- A result register as the host sees it (R42): 0 while BUSY, "so that no intermediate value of a conversion is
visible". -/
def hideWhileBusy (s : State) (v : Nat) : Nat :=
  if s.life = .busy then 0 else v

/-- What a read of register `n` returns (R29). CMD and the numbers that do not exist read 0; no read has a side effect
(R43). -/
def readReg (s : State) (n : Nat) : Nat :=
  match n with
  | 0 => 0
  | 1 => (statusByte s).toNat
  | 2 => hideWhileBusy s (errByte s).toNat
  | 3 => hideWhileBusy s s.errIdx
  | 4 => (ctrlByte s).toNat
  | 5 => s.tc.toNat
  | 6 => s.sc.toNat
  | 7 => s.sh0.toNat
  | 8 => s.sh1.toNat
  | 9 => s.sh2.toNat
  | 10 => s.imgW
  | 11 => s.imgH
  | 12 => hideWhileBusy s s.nblk
  | 13 => hideWhileBusy s s.bpb
  | 14 => hideWhileBusy s s.ct.c0.toNat
  | 15 => hideWhileBusy s s.ct.c1.toNat
  | 16 => hideWhileBusy s s.ct.c2.toNat
  | 17 => hideWhileBusy s s.ct.c3.toNat
  | 18 => hideWhileBusy s s.fg.toNat
  | 19 => hideWhileBusy s s.attrLen
  | 20 => hideWhileBusy s s.pixLen
  | _ => 0

/-- A write of `v` to register `n` other than CMD: the value is cut to the register's width (R35, R36, R43; CTRL's
reserved bits ignore it, R34), a read-only or absent register ignores it (R29), and while BUSY every register does
(R42). -/
def writeReg (n v : Nat) (s : State) : State :=
  if s.life = .busy then s
  else
    match n with
    | 4 => { s with ctrl := BitVec.ofNat 4 v }
    | 5 => { s with tc := BitVec.ofNat 4 v }
    | 6 => { s with sc := BitVec.ofNat 4 v }
    | 7 => { s with sh0 := BitVec.ofNat 8 v }
    | 8 => { s with sh1 := BitVec.ofNat 8 v }
    | 9 => { s with sh2 := BitVec.ofNat 8 v }
    | 10 => { s with imgW := v % 2 ^ s.cfg.dimBits }
    | 11 => { s with imgH := v % 2 ^ s.cfg.dimBits }
    | _ => s

end Sys2Proof.Machine
end

