-- ==== Sys2Proof/Machine/Turns.lean ====
section
/-! DEFINITION. The two agents' turns: one step of the sequencer (spec/10_state.md R25, R26; spec/45_host_commands.md
R215: "one step of the sequencer as one internal operation at one position"), and one move of the outside world. -/

namespace Sys2Proof.Machine

/-- One step of the sequencer: while BUSY it executes the operation that `sel = CTRL.MODE :: PHASE` selects (R100), in
every other STATE nothing. The idle position executes nothing; the selectors that are never reached stop the machine. -/
def sequencerTurn (s : State) : Host.Outcome State Fault Refusal :=
  if s.life = .busy then
    match decodeSelector (selector s) with
    | .ok i => exec i s
    | .error .idlePosition => .next s
    | .error _ => .fault .unreachableSelector
  else .next s

/-- A write to CMD (R30, R95): the low 8 bits are the code (log entry 13). Ignored while BUSY whatever the code (R42); a reserved code
has no effect (R209). -/
def commandWrite (v : Nat) (s : State) : Host.Outcome State Fault Refusal :=
  if s.life = .busy then .next s
  else
    match decodeCommand (BitVec.ofNat 8 v) with
    | .ok i => exec i s
    | .error _ => .next s

/-- A read of an output memory (R48, R49): past the end there is no element (U6). -/
def outputRead (mem : List Byte) (i : Nat) (s : State) : Host.Outcome State Fault Refusal :=
  match mem[i]? with
  | some v => .next { s with busRead := some v.toNat }
  | none => .refused .readPastEnd

/-- One move of the outside world. -/
def hostTurn (a : HostAction) (s : State) : Host.Outcome State Fault Refusal :=
  match a with
  | .wait => sequencerTurn s
  | .reset => .next (resetBlock s)
  | .rd n => .next { s with busRead := some (readReg s n) }
  | .rdAttr i => outputRead s.attrOut i s
  | .rdPix i => outputRead s.pixOut i s
  | .pix x y v => if s.life = .busy then .refused .pixWriteWhileBusy else .next (pixWrite s x y v)
  | .wr n v => if n = 0 then commandWrite v s else .next (writeReg n v s)

end Sys2Proof.Machine
end

