-- ==== Sys2Proof/Machine/Step.lean ====
section
/-! DEFINITION. One step of the machine, and the host's interface function that places an instruction. -/

namespace Sys2Proof.Machine

/-- One step. The first move of the outside world's list, if there is one, is taken off and made; with no move left the
sequencer has every turn (log entry 4). -/
def step (s : State) : Host.Outcome State Fault Refusal :=
  match s.host with
  | [] => sequencerTurn s
  | a :: q => hostTurn a { s with host := q }

/-- `s` made ready so that the very next step runs the table word `w` (log entry 3). A command is the outside world's
next move, a write to CMD. An operation is the position of a conversion in progress: BUSY, CTRL.MODE and PHASE as the
selector says, and the sequencer's turn next. -/
def State.withFetchWord (s : State) (nbits w : Nat) : State :=
  match tableCode nbits w with
  | none => s
  | some (.command c) => { s with host := .wr 0 c.toNat :: s.host }
  | some (.selector sel) =>
    { s with
      life := .busy
      ctrl := withMode s.ctrl (selMode sel)
      phase := phaseOf (selPhase sel)
      host := .wait :: s.host }

end Sys2Proof.Machine
end

