-- ==== Sys2Proof/Machine/Convert.lean ====
section
/-! DEFINITION. The whole conversion as one function of the configuration and the pixel grid (spec/45_host_commands.md
R211), with no state and no sequencer. Statements compare the machine's run with it. -/

namespace Sys2Proof.Machine

/-- The configuration a conversion reads (R211's arguments but `G`). -/
structure ConvConfig where
  mode : Mode
  attrEn : Bool
  tc : Option Idx
  sc : Option Idx
  sh0 : Idx
  sh1 : Idx
  sh2 : Idx
  w : Nat
  h : Nat
  deriving DecidableEq, Repr

/-- The configuration that `s`'s RW registers hold. -/
def State.convConfig (s : State) : ConvConfig where
  mode := s.mode
  attrEn := s.attrEn
  tc := tcOperand s
  sc := scOperand s
  sh0 := s.sh0
  sh1 := s.sh1
  sh2 := s.sh2
  w := s.imgW
  h := s.imgH

/-- A failure: its kind, the component that failed, and the recorded index (R211: ERR, STATUS.PHASE, ERRIDX). -/
structure ConvFailure where
  kind : FailKind
  phase : Phase
  idx : Nat
  deriving DecidableEq, Repr

/-- A success: what R211 sets. ATTRLEN and PIXLEN are the lengths. -/
structure ConvOutput where
  attrOut : List Byte
  pixOut : List Byte
  nblk : Nat
  bpb : Nat
  ct : ColorTable
  fg : Idx
  deriving DecidableEq, Repr

/-- `PACK(G, Block_S(k), CT)` for each listed frame in order, appended to `pix`. -/
def convertFrames (g : Nat → Nat → Idx) (h : Nat) (ct : ColorTable) (ks : List Nat) (pix : List Byte) :
    Except ConvFailure (List Byte) :=
  match ks with
  | [] => .ok pix
  | k :: l =>
    match packBlock g ct (blockS h k) with
    | none => .error ⟨.colorNotInTable, .pack, k⟩
    | some bytes => convertFrames g h ct l (pix ++ bytes)

/-- The sprite arm of R211. -/
def convertSprite (c : ConvConfig) (g : Nat → Nat → Idx) : Except ConvFailure ConvOutput :=
  match splitSprite c.w c.h with
  | .error k => .error ⟨k, .split, 0⟩
  | .ok nb =>
    match resolveSprite (distinct (blockPixels g (imageBlock c.w c.h))) c.tc c.sc with
    | .error k => .error ⟨k, .resolve, 0⟩
    | .ok t =>
      match convertFrames g c.h (ColorTable.ofList t) (List.range nb.1) [] with
      | .error e => .error e
      | .ok pix => .ok ⟨[], pix, nb.1, nb.2, ColorTable.ofList t, 0⟩

/-- What one tile contributes (R211): its ColorTable, foreground and PackedBlock, or the first failure. -/
def convertTile (c : ConvConfig) (g : Nat → Nat → Idx) (k : Nat) : Except ConvFailure (ColorTable × Idx × List Byte) :=
  match resolveTile (nonShared c.sh0 c.sh1 c.sh2 (distinct (blockPixels g (blockT c.w k)))) with
  | .error e => .error ⟨e, .resolve, k⟩
  | .ok fg =>
    match packBlock g ⟨c.sh0, c.sh1, c.sh2, fg⟩ (blockT c.w k) with
    | none => .error ⟨.colorNotInTable, .pack, k⟩
    | some bytes => .ok (⟨c.sh0, c.sh1, c.sh2, fg⟩, fg, bytes)

/-- The tiles of R211's loop, "in order, stopping at the first failure": each listed tile's attribute byte and pixel
bytes appended to what came before, CT and FG those of the last. -/
def convertTiles (c : ConvConfig) (g : Nat → Nat → Idx) (ks : List Nat) (acc : ConvOutput) :
    Except ConvFailure ConvOutput :=
  match ks with
  | [] => .ok acc
  | k :: l =>
    (convertTile c g k).bind fun r =>
      convertTiles c g l
        { acc with
          ct := r.1
          fg := r.2.1
          attrOut := acc.attrOut ++ [attrByte r.2.1]
          pixOut := acc.pixOut ++ r.2.2 }

/-- The tileset arm of R211. -/
def convertTileset (c : ConvConfig) (g : Nat → Nat → Idx) : Except ConvFailure ConvOutput :=
  match splitTileset c.w c.h with
  | .error k => .error ⟨k, .split, 0⟩
  | .ok nb =>
    match convertTiles c g (List.range nb.1) ⟨[], [], nb.1, nb.2, ⟨0, 0, 0, 0⟩, 0⟩ with
    | .error e => .error e
    | .ok o => .ok { o with attrOut := if c.attrEn then o.attrOut else [] }

/-- `Convert` (R211). -/
def convert (c : ConvConfig) (g : Nat → Nat → Idx) : Except ConvFailure ConvOutput :=
  match c.mode with
  | .sprite => convertSprite c g
  | .tileset => convertTileset c g

end Sys2Proof.Machine
end

