-- ==== Sys2Proof/Safety.lean ====
section
/-! DEFINITION. The terms the statements use: what an operation leaves alone, what a failure leaves, and the invariant that
every step keeps. A safe run is one whose states satisfy `Inv`; no reachable state faults. -/

namespace Sys2Proof.Machine

/-- Nothing the host supplies differs: configuration registers, PIX and the outside world's own fields. -/
structure SameInputs (s t : State) : Prop where
  cfg : t.cfg = s.cfg
  ctrl : t.ctrl = s.ctrl
  tc : t.tc = s.tc
  sc : t.sc = s.sc
  sh0 : t.sh0 = s.sh0
  sh1 : t.sh1 = s.sh1
  sh2 : t.sh2 = s.sh2
  imgW : t.imgW = s.imgW
  imgH : t.imgH = s.imgH
  pix : t.pix = s.pix
  pixEpoch : t.pixEpoch = s.pixEpoch
  host : t.host = s.host
  busRead : t.busRead = s.busRead

/-- Every result register, working register, working set, staging and output memory is 0 or empty (R205, R208, R240). -/
structure Cleared (s : State) : Prop where
  nblk : s.nblk = 0
  bpb : s.bpb = 0
  ct : s.ct = ⟨0, 0, 0, 0⟩
  fg : s.fg = 0
  attrLen : s.attrLen = 0
  pixLen : s.pixLen = 0
  attrOut : s.attrOut = []
  pixOut : s.pixOut = []
  attrStage : s.attrStage = []
  pixStage : s.pixStage = []
  seen : s.seen = []
  tset : s.tset = []
  ns : s.ns = []

/-- `t` is what `raise kind(idx)` leaves of `s` (R240). -/
structure FailedFrom (s t : State) (kind : FailKind) (idx : Nat) : Prop where
  life : t.life = .failed
  err : t.err = some kind
  errIdx : t.errIdx = idx
  phase : t.phase = s.phase
  blk : t.blk = 0
  cleared : Cleared t
  inputs : SameInputs s t

/-- SH[0..2] pairwise distinct (R23). -/
def SharedDistinct (s : State) : Prop :=
  s.sh0 ≠ s.sh1 ∧ s.sh0 ≠ s.sh2 ∧ s.sh1 ≠ s.sh2

/-- The preconditions of CONV that the model can see (R205, R262 H1 and H4). -/
def LegalConfig (s : State) : Prop :=
  1 ≤ s.imgW ∧ 1 ≤ s.imgH ∧ (s.mode = .tileset → SharedDistinct s)

/-- The image is an exact grid of sprite frames and NBLK, BPB say so (R120). -/
def SpriteGrid (s : State) : Prop :=
  s.imgW = 12 * s.nblk ∧ s.imgH % 21 = 0 ∧ s.bpb = 3 * s.imgH ∧ 1 ≤ s.nblk

/-- The image is an exact grid of at most 256 tiles and NBLK, BPB say so (R122). -/
def TileGrid (s : State) : Prop :=
  s.imgW % 4 = 0 ∧ s.imgH % 8 = 0 ∧ s.nblk = s.imgW / 4 * (s.imgH / 8) ∧ s.bpb = 8 ∧ 1 ≤ s.nblk ∧ s.nblk ≤ 256

/-- Every pixel of block `b` is in CT. -/
def Covers (s : State) (b : Block) : Prop :=
  ∀ p ∈ blockPixels (pixRead s) b, p ∈ s.ct.toList

/-- Attribute bytes are in 8..15 (R186). -/
def AttrRange (l : List Byte) : Prop :=
  ∀ a ∈ l, 8 ≤ a.toNat ∧ a.toNat ≤ 15

/-- What holds at each position of the sprite sequence (R206). -/
def SpritePosition (s : State) : Prop :=
  s.attrStage = [] ∧ s.fg = 0 ∧
    match s.phase with
    | .split => s.blk = 0 ∧ Cleared s
    | .resolve => SpriteGrid s ∧ s.blk = 0 ∧ s.pixStage = []
    | .pack =>
      SpriteGrid s ∧ s.blk < s.nblk ∧ s.pixStage.length = s.blk * s.bpb ∧ Covers s (imageBlock s.imgW s.imgH)
    | .emit => SpriteGrid s ∧ s.blk = 0 ∧ s.pixStage.length = s.nblk * s.bpb
    | .none | .attr => False

/-- What holds at each position of the tileset sequence (R207). -/
def TilePosition (s : State) : Prop :=
  AttrRange s.attrStage ∧
    match s.phase with
    | .split => s.blk = 0 ∧ Cleared s
    | .resolve => TileGrid s ∧ s.blk < s.nblk ∧ s.pixStage.length = s.blk * s.bpb ∧ s.attrStage.length = s.blk
    | .pack =>
      TileGrid s ∧ s.blk < s.nblk ∧ s.pixStage.length = s.blk * s.bpb ∧ s.attrStage.length = s.blk ∧
        s.ct = ⟨s.sh0, s.sh1, s.sh2, s.fg⟩ ∧ Covers s (blockT s.imgW s.blk)
    | .attr => TileGrid s ∧ s.blk < s.nblk ∧ s.pixStage.length = (s.blk + 1) * s.bpb ∧ s.attrStage.length = s.blk
    | .emit => TileGrid s ∧ s.blk = 0 ∧ s.pixStage.length = s.nblk * s.bpb ∧ s.attrStage.length = s.nblk
    | .none => False

/-- PIX_STAGE holds the PackedBlocks of the first `n` frames under CT, in frame order (R171, R190). -/
def FramesStaged (s : State) (n : Nat) : Prop :=
  ∃ blocks : List (List Byte), blocks.length = n ∧ s.pixStage = blocks.flatten ∧
    ∀ k < n, blocks[k]? = packBlock (pixRead s) s.ct (blockS s.imgH k)

/-- The foreground of tile `k` (R153), or its failure. -/
def tileForeground (s : State) (k : Nat) : Except FailKind Idx :=
  resolveTile (nonShared s.sh0 s.sh1 s.sh2 (tileColours s k))

/-- PIX_STAGE holds the PackedBlocks of the first `n` tiles, each under its own table, and ATTR_STAGE the attribute bytes of
the first `m` of them, both in tile-scan order (R153, R171, R185). -/
def TilesStaged (s : State) (n m : Nat) : Prop :=
  ∃ tiles : List (Idx × List Byte), tiles.length = n ∧ s.pixStage = (tiles.map Prod.snd).flatten ∧
    s.attrStage = (tiles.take m).map (fun t => attrByte t.1) ∧
    ∀ k t, tiles[k]? = some t → tileForeground s k = .ok t.1 ∧
      packBlock (pixRead s) ⟨s.sh0, s.sh1, s.sh2, t.1⟩ (blockT s.imgW k) = some t.2

/-- What is staged, and what is resolved, at each position of a conversion in progress. -/
def StagedContents (s : State) : Prop :=
  match s.mode, s.phase with
  | .sprite, .split | .sprite, .resolve => FramesStaged s 0
  | .sprite, .pack =>
    FramesStaged s s.blk ∧
      resolveSprite (imageColours s) (tcOperand s) (scOperand s) = .ok s.ct.toList
  | .sprite, .emit =>
    FramesStaged s s.nblk ∧
      resolveSprite (imageColours s) (tcOperand s) (scOperand s) = .ok s.ct.toList
  | .tileset, .split => TilesStaged s 0 0
  | .tileset, .resolve => TilesStaged s s.blk s.blk
  | .tileset, .pack => TilesStaged s s.blk s.blk ∧ tileForeground s s.blk = .ok s.fg
  | .tileset, .attr => TilesStaged s (s.blk + 1) s.blk ∧ tileForeground s s.blk = .ok s.fg
  | .tileset, .emit => TilesStaged s s.nblk s.nblk
  | _, .none | .sprite, .attr => False

/-- A conversion in progress: legal configuration, nothing visible yet, and a position of its sequence. -/
structure BusyInv (s : State) : Prop where
  legal : LegalConfig s
  err : s.err = none
  errIdx : s.errIdx = 0
  attrOut : s.attrOut = []
  pixOut : s.pixOut = []
  attrLen : s.attrLen = 0
  pixLen : s.pixLen = 0
  position :
    match s.mode with
    | .sprite => SpritePosition s
    | .tileset => TilePosition s

/-- A finished conversion: the idle position, no failure, lengths and counts that agree (R38 to R41). -/
structure DoneInv (s : State) : Prop where
  phase : s.phase = .none
  blk : s.blk = 0
  err : s.err = none
  errIdx : s.errIdx = 0
  pixLen : s.pixLen = s.pixOut.length
  attrLen : s.attrLen = s.attrOut.length
  product : s.pixLen = s.nblk * s.bpb
  count : s.attrLen = 0 ∨ (s.attrLen = s.nblk ∧ s.nblk ≤ 256)
  nblkPos : 1 ≤ s.nblk
  nblkFits : s.nblk < 2 ^ s.cfg.dimBits
  bpbFits : s.bpb < 2 ^ (s.cfg.dimBits + 2)
  pixLenFits : s.pixLen < 2 ^ (2 * s.cfg.dimBits)
  attrRange : AttrRange s.attrOut

/-- An idle block: everything cleared, at `(NONE, 0)`, no failure (R26, R53). -/
structure IdleInv (s : State) : Prop where
  cleared : Cleared s
  phase : s.phase = .none
  blk : s.blk = 0
  err : s.err = none
  errIdx : s.errIdx = 0

/-- A failed conversion: everything cleared, one failure recorded at the component that raises it (R26, R230, R240),
never `DecodeFailure` (R231) and never `ColorNotInTable` (R177). -/
structure FailedInv (s : State) : Prop where
  cleared : Cleared s
  blk : s.blk = 0
  kind :
    ∃ k, s.err = some k ∧ k ≠ .decodeFailure ∧ k ≠ .colorNotInTable ∧ s.phase = k.phase ∧
      (k.perBlock = false → s.errIdx = 0)
  errIdxFits : s.errIdx < 2 ^ s.cfg.dimBits

/-- The invariant that every step keeps. -/
structure Inv (s : State) : Prop where
  /-- R8: `DIM_BITS >= 9`. -/
  dimBits : 9 ≤ s.cfg.dimBits
  /-- R37: IMG_W fits its register. -/
  imgW : s.imgW < 2 ^ s.cfg.dimBits
  /-- R37: IMG_H fits its register. -/
  imgH : s.imgH < 2 ^ s.cfg.dimBits
  /-- PIX is in canonical form. -/
  pix : Memory.wf s.pix = true
  /-- R24: FG is 0..7. -/
  fg : s.fg.toNat ≤ 7
  /-- What holds in each STATE. -/
  life :
    match s.life with
    | .idle => IdleInv s
    | .busy => BusyInv s
    | .done => DoneInv s
    | .failed => FailedInv s

end Sys2Proof.Machine
end

