-- ==== Sys2Proof/WellFormed.lean ====
section
/-! DEFINITION. Well-formedness of syntax. No check here guards the machine: the step gives every host action the spec's
answer, well-formed or not (truncation R35, ignored writes R43, cells outside PIX U7). These are the duties and ranges
of spec/10_state.md R29, R35 and R47, so that a statement can name them. -/

namespace Sys2Proof

/-- Every term of `Instr` is well formed: the only operand is `pack`'s mode bit, and the table allows either value
(spec/30_encoding.md R100, row PACK, mask 0x7). -/
def Instr.wf (i : Instr) : Bool :=
  match i with
  | .conv | .clr | .splitS | .splitT | .resolveS | .resolveT | .pack _ | .attr | .emitS | .emitT => true

/-- A host action that uses only what R29 and R47 say exists: a writable register and a value in its width, a cell whose
coordinates an image can have, a register number that exists. -/
def HostAction.wf (c : Config) (a : HostAction) : Bool :=
  match a with
  | .wr n v =>
    (decide (Machine.regAccess n = .w) || decide (Machine.regAccess n = .rw)) && decide (v < 2 ^ Machine.regWidth c n)
  | .pix x y _ => decide (x < 2 ^ c.dimBits) && decide (y < 2 ^ c.dimBits)
  | .rd n => decide (n ≤ 20)
  | .rdAttr i => decide (i < 256)
  | .rdPix i => decide (i < 2 ^ (2 * c.dimBits))
  | .reset => true
  | .wait => true

end Sys2Proof
end

