-- ==== Sys2Proof/Certificates/Slice0/Obligations.lean ====
section
/-! DEFINITION. The statements about the model, for the provers. Each docstring names the rule of spec/ it formalises.
Instructions are stated as equations or as the next state they answer, so that each is also the statement that the
instruction completes. The outside world's list `host` is universally quantified: a statement about `step` holds for every
schedule of host moves. -/

open Sys2Proof Sys2Proof.Machine

/-! ### Encodings and decoding -/

/-- Tier 1. The ten words of spec/opcode_table.json (R96, R100), written out bit by bit; PACK in both modes. -/
def Obligations.TableWordsDecode : Prop :=
  decode (.command 0b00000001#8) = .ok .conv ∧
  decode (.command 0b00000010#8) = .ok .clr ∧
  decode (.selector 0b0001#4) = .ok .splitS ∧
  decode (.selector 0b1001#4) = .ok .splitT ∧
  decode (.selector 0b0010#4) = .ok .resolveS ∧
  decode (.selector 0b1010#4) = .ok .resolveT ∧
  decode (.selector 0b0011#4) = .ok (.pack .sprite) ∧
  decode (.selector 0b1011#4) = .ok (.pack .tileset) ∧
  decode (.selector 0b1100#4) = .ok .attr ∧
  decode (.selector 0b0101#4) = .ok .emitS ∧
  decode (.selector 0b1101#4) = .ok .emitT

/-- Tier 1. Decoding and encoding agree in both directions, for every operation and every code of both formats: no word has
two meanings, and no operand bit is dropped. -/
def Obligations.DecodeAndEncodeAgree : Prop :=
  (∀ i : Instr, i.wf = true → decode (encode i) = .ok i) ∧
  (∀ (w : Code) (i : Instr), decode w = .ok i → encode i = w)

/-- Tier 1. What is no operation is rejected by name (R96, R100): reserved command codes, the idle position, ATTR in sprite
mode, phases 6 and 7. -/
def Obligations.ReservedCodesAreRejected : Prop :=
  (∀ c : BitVec 8, c ≠ 0x01#8 → c ≠ 0x02#8 → decode (.command c) = .error .reservedCommand) ∧
  (∀ m : BitVec 1, decode (.selector (m ++ 0b000#3)) = .error .idlePosition ∧
    decode (.selector (m ++ 0b110#3)) = .error .unusedPhase ∧ decode (.selector (m ++ 0b111#3)) = .error .unusedPhase) ∧
  decode (.selector 0b0100#4) = .error .attrInSpriteMode

/-! ### The step -/

/-- Tier 1. R25, R100, R215: on the sequencer's turn a BUSY block runs exactly the operation its selector decodes to, and a
block that is not BUSY does nothing. The selector is `CTRL.MODE :: PHASE`. The turn is the sequencer's when the outside
world has no move left or waits (the model's schedule, log entry 4). -/
def Obligations.SequencerRunsTheSelectedOperation : Prop :=
  ∀ s s0 : State, (s.host = [] ∧ s0 = s) ∨ (∃ q, s.host = .wait :: q ∧ s0 = { s with host := q }) →
    (selector s).toNat = (if s.mode = .tileset then 8 else 0) + s.phase.code.toNat ∧
    (s.life ≠ .busy → step s = .next s0) ∧
    (∀ i, s.life = .busy → decodeSelector (selector s) = .ok i → step s = exec i s0)

/-- Tier 1. R30, R95: a write to CMD while the block is not BUSY runs the command that the low 8 bits of the
value code (that a wider value is cut is read from R43, log entry 13). -/
def Obligations.CommandWriteRunsTheCommand : Prop :=
  ∀ (s : State) (q : List HostAction) (v : Nat) (i : Instr), s.host = .wr 0 v :: q → s.life ≠ .busy →
    decodeCommand (BitVec.ofNat 8 v) = .ok i → step s = exec i { s with host := q }

/-- Tier 1. R209: a reserved command code changes no state, in any STATE, and records no failure. -/
def Obligations.ReservedCommandChangesNothing : Prop :=
  ∀ (s : State) (q : List HostAction) (v : Nat), s.host = .wr 0 v :: q → v % 256 ≠ 1 → v % 256 ≠ 2 →
    step s = .next { s with host := q }

/-- Tier 2. R206, R207 (the positions): an operation that does not fail moves the position to the next one of the fixed
sequence of its mode, whatever the pixels are (R214). -/
def Obligations.SequencerFollowsTheFixedSequence : Prop :=
  ∀ s t : State, s.life = .busy → (∃ i, decodeSelector (selector s) = .ok i ∧ exec i s = .next t) → t.life ≠ .failed →
    (t.phase, t.blk) =
      match s.mode, s.phase with
      | _, .split => (.resolve, 0)
      | .sprite, .resolve => (.pack, 0)
      | .tileset, .resolve => (.pack, s.blk)
      | .sprite, .pack => if s.blk + 1 < s.nblk then (.pack, s.blk + 1) else (.emit, 0)
      | .tileset, .pack => (.attr, s.blk)
      | _, .attr => if s.blk + 1 < s.nblk then (.resolve, s.blk + 1) else (.emit, 0)
      | _, .emit => (.none, 0)
      | _, .none => (s.phase, s.blk)

/-! ### The register file -/

/-- Tier 1. R53: the reset state. -/
def Obligations.ResetStateIsAllZero : Prop :=
  (∀ n, readReg State.reset n = 0) ∧ State.reset.life = .idle ∧ State.reset.phase = .none ∧ State.reset.blk = 0 ∧
    Cleared State.reset ∧ State.reset.pix = []

/-- Tier 1. R260: reset, in any STATE, abandons what is in progress without recording a failure and leaves the reset values;
afterwards the block does nothing of its own. -/
def Obligations.ResetAbandonsTheConversion : Prop :=
  ∀ (s : State) (q : List HostAction), s.host = .reset :: q →
    ∃ t, step s = .next t ∧ t.life = .idle ∧ t.phase = .none ∧ t.blk = 0 ∧ t.err = none ∧ t.errIdx = 0 ∧ Cleared t ∧
      (∀ n, readReg t n = 0) ∧ t.cfg = s.cfg ∧ t.host = q ∧ t.busRead = s.busRead ∧ (q = [] → step t = .next t)

/-- Tier 2. R29, R34 to R37, R43 (a write while not BUSY, register other than CMD): an RW register reads back the value cut to
its width (CTRL's reserved bits read 0), every other register reads as before, a read-only or absent register ignores the
write, and nothing that is no register changes. -/
def Obligations.RegisterWriteIsTruncatedAndLocal : Prop :=
  ∀ (s : State) (q : List HostAction) (n v : Nat), s.host = .wr n v :: q → n ≠ 0 → s.life ≠ .busy →
    ∃ t, step s = .next t ∧
      (regAccess n = .rw → readReg t n = v % 2 ^ (if n = 4 then 4 else regWidth s.cfg n)) ∧
      (∀ k, (k ≠ n ∨ regAccess n ≠ .rw) → readReg t k = readReg s k) ∧
      (regAccess n ≠ .rw → t = { s with host := q }) ∧
      t.life = s.life ∧ t.phase = s.phase ∧ t.blk = s.blk ∧ t.pix = s.pix ∧ t.pixEpoch = s.pixEpoch ∧
      t.attrOut = s.attrOut ∧ t.pixOut = s.pixOut ∧ t.attrStage = s.attrStage ∧ t.pixStage = s.pixStage ∧
      t.seen = s.seen ∧ t.tset = s.tset ∧ t.ns = s.ns ∧ t.cfg = s.cfg ∧ t.host = q ∧ t.busRead = s.busRead

/-- Tier 2. R42: while BUSY a write to any register, CMD with any code included, is ignored; the read-only registers but STATUS
read 0; STATUS reads BUSY and the current PHASE; and so nothing but reset can change the configuration. -/
def Obligations.BusyLocksTheRegisters : Prop :=
  ∀ s : State, s.life = .busy →
    (∀ q n v, s.host = .wr n v :: q → step s = .next { s with host := q }) ∧
    (∀ n, regAccess n = .r → n ≠ 1 → readReg s n = 0) ∧
    readReg s 1 = 1 + 4 * s.phase.code.toNat ∧
    (∀ t, step s = .next t → (∀ q, s.host ≠ .reset :: q) →
      t.ctrl = s.ctrl ∧ t.tc = s.tc ∧ t.sc = s.sc ∧ t.sh0 = s.sh0 ∧ t.sh1 = s.sh1 ∧ t.sh2 = s.sh2 ∧
        t.imgW = s.imgW ∧ t.imgH = s.imgH)

/-- Tier 1. R31, R32 with the codes of R25, R27 and R230 written out, one per constructor: STATUS is STATE in bits 1:0 and PHASE in
bits 4:2 with bits 7:5 zero; ERR is the failure code in bits 3:0 with bits 7:4 zero, 0 when no failure is recorded. -/
def Obligations.StatusAndErrFields : Prop :=
  ∀ s : State,
    readReg s 1 % 4 = (match s.life with
      | .idle => 0
      | .busy => 1
      | .done => 2
      | .failed => 3) ∧
    readReg s 1 / 4 % 8 = (match s.phase with
      | .none => 0
      | .split => 1
      | .resolve => 2
      | .pack => 3
      | .attr => 4
      | .emit => 5) ∧
    readReg s 1 / 32 = 0 ∧
    (s.life ≠ .busy → readReg s 2 = (match s.err with
      | none => 0
      | some .decodeFailure => 1
      | some .sizeMismatch => 2
      | some .tooManyColors => 3
      | some .tooManyTiles => 4
      | some .colorNotFound => 5
      | some .ambiguousForeground => 6
      | some .foregroundOutOfRange => 7
      | some .colorNotInTable => 8))

/-- Tier 1. R29, R30, R43: CMD and the register numbers from 21 on read 0, and a host read of a register changes nothing of the
block. -/
def Obligations.RegisterReadHasNoSideEffect : Prop :=
  (∀ (s : State) (n : Nat), (n = 0 ∨ 21 ≤ n) → readReg s n = 0) ∧
  (∀ (s : State) (q : List HostAction) (n : Nat), s.host = .rd n :: q →
    step s = .next { s with host := q, busRead := some (readReg s n) })

/-- Tier 1. R48, R49 with U6: a read of an output memory inside its length returns that element; past the end the model refuses
(the model's choice, log entry 8: the treatment of spec/93_implementation_defined.md U6). -/
def Obligations.OutputReadsReturnTheElement : Prop :=
  ∀ (s : State) (q : List HostAction) (i : Nat),
    (∀ v, s.host = .rdAttr i :: q → s.attrOut[i]? = some v → step s = .next { s with host := q, busRead := some v.toNat }) ∧
    (∀ v, s.host = .rdPix i :: q → s.pixOut[i]? = some v → step s = .next { s with host := q, busRead := some v.toNat }) ∧
    (s.host = .rdAttr i :: q → s.attrOut.length ≤ i → step s = .refused .readPastEnd) ∧
    (s.host = .rdPix i :: q → s.pixOut.length ≤ i → step s = .refused .readPastEnd)

/-! ### PIX -/

/-- Tier 2. R47 (host writes; that a cell no image can have ignores the write is the model's choice, U7, log entry 5): the cell written reads the value, every other cell reads as
before, the canonical form is kept, and no register or other memory changes. -/
def Obligations.PixWriteReadsBack : Prop :=
  ∀ (s : State) (q : List HostAction) (x y : Nat) (v : Idx), s.host = .pix x y v :: q → s.life ≠ .busy →
    ∃ t, step s = .next t ∧
      (x < 2 ^ s.cfg.dimBits → y < 2 ^ s.cfg.dimBits → pixRead t x y = v) ∧
      (∀ x' y', ¬ (x' = x ∧ y' = y) → pixRead t x' y' = pixRead s x' y') ∧
      (2 ^ s.cfg.dimBits ≤ x ∨ 2 ^ s.cfg.dimBits ≤ y → t = { s with host := q }) ∧
      (Memory.wf s.pix = true → Memory.wf t.pix = true) ∧
      t = { s with host := q, pix := t.pix }

/-- Tier 1. The model's treatment of R263 (a), U5 (log entry 6): a host write to PIX while BUSY is refused. -/
def Obligations.PixWriteWhileBusyIsRefused : Prop :=
  ∀ (s : State) (q : List HostAction) (x y : Nat) (v : Idx), s.host = .pix x y v :: q → s.life = .busy →
    step s = .refused .pixWriteWhileBusy

/-- Tier 2. R47: no step but a host write to PIX or reset changes PIX; every cell reads as before. -/
def Obligations.OnlyTheHostChangesPix : Prop :=
  ∀ s t : State, step s = .next t → (∀ x y v q, s.host ≠ .pix x y v :: q) → (∀ q, s.host ≠ .reset :: q) →
    t.pix = s.pix ∧ ∀ x y, pixRead t x y = pixRead s x y

/-- Tier 1. R61: PixRead is MemRead at the row-major linear address, and the address lies in PIX. -/
def Obligations.PixLinearAddress : Prop :=
  ∀ (s : State) (x y : Nat), x < s.imgW → y < s.imgH →
    pixRead s x y = memRead s (y * s.imgW + x) ∧ y * s.imgW + x < s.imgW * s.imgH

/-! ### The commands -/

/-- Tier 1. R205: CONV clears everything a previous conversion left, sets BUSY and the position `(SPLIT, 0)`, and changes no RW
register and no pixel; while BUSY it is ignored. The hypotheses are the preconditions the rule names. -/
def Obligations.ConvStartsAConversion : Prop :=
  decodeCommand 0x01#8 = .ok .conv ∧
  ∀ s : State,
    (s.life = .busy → exec .conv s = .next s) ∧
    (s.life ≠ .busy → LegalConfig s →
      ∃ t, exec .conv s = .next t ∧ t.life = .busy ∧ t.phase = .split ∧ t.blk = 0 ∧ t.err = none ∧ t.errIdx = 0 ∧
        Cleared t ∧ SameInputs s t ∧ ∀ x y, pixRead t x y = pixRead s x y)

/-- Tier 1. The model's treatment (log entry 7) of a CONV to which the spec gives no meaning (R37, R23; U2 and U3: refuse): a zero
dimension, or in tileset mode shared colours that are not pairwise distinct. -/
def Obligations.ConvWithoutMeaningIsRefused : Prop :=
  ∀ s : State, s.life ≠ .busy →
    (s.imgW = 0 ∨ s.imgH = 0 → exec .conv s = .refused .emptyImage) ∧
    (1 ≤ s.imgW → 1 ≤ s.imgH → s.mode = .tileset → ¬ SharedDistinct s → exec .conv s = .refused .sharedNotDistinct)

/-- Tier 1. R208: CLR clears results and failure, goes to IDLE at `(NONE, 0)` and changes no RW register and no pixel; while BUSY
it is ignored; in IDLE (with the model's invariant) it changes nothing. -/
def Obligations.ClrReleasesTheResults : Prop :=
  decodeCommand 0x02#8 = .ok .clr ∧
  ∀ s : State,
    (s.life = .busy → exec .clr s = .next s) ∧
    (s.life ≠ .busy →
      ∃ t, exec .clr s = .next t ∧ t.life = .idle ∧ t.phase = .none ∧ t.blk = 0 ∧ t.err = none ∧ t.errIdx = 0 ∧
        Cleared t ∧ SameInputs s t ∧ ∀ x y, pixRead t x y = pixRead s x y) ∧
    (s.life = .idle → Inv s → exec .clr s = .next s)

/-- Tier 1. R52: two conversions with equal configuration and equal PIX content are the same conversion, whatever the block held
before (results, a failure, staged bytes, working sets). -/
def Obligations.NothingSurvivesIntoTheNextConversion : Prop :=
  ∀ s t : State, s.life ≠ .busy → t.life ≠ .busy → SameInputs s t → exec .conv s = exec .conv t

/-! ### The Frame Splitter -/

/-- Tier 1. R120: SPLIT.S. The whole next state is given, so everything it does not name is unchanged. -/
def Obligations.SplitSpriteSizesTheImage : Prop :=
  decodeSelector 0b0001#4 = .ok .splitS ∧
  ∀ s : State, 1 ≤ s.imgW → 1 ≤ s.imgH →
    (s.imgW % 12 = 0 → s.imgH % 21 = 0 →
      exec .splitS s = .next { s with nblk := s.imgW / 12, bpb := 3 * s.imgH, phase := .resolve, blk := 0 }) ∧
    (s.imgW % 12 ≠ 0 ∨ s.imgH % 21 ≠ 0 → ∃ t, exec .splitS s = .next t ∧ FailedFrom s t .sizeMismatch 0)

/-- Tier 1. R122: SPLIT.T: the size check, then the tile count (exactly 256 tiles succeed), then NBLK and BPB. -/
def Obligations.SplitTilesetSizesTheImage : Prop :=
  decodeSelector 0b1001#4 = .ok .splitT ∧
  ∀ s : State, 1 ≤ s.imgW → 1 ≤ s.imgH →
    (s.imgW % 4 ≠ 0 ∨ s.imgH % 8 ≠ 0 → ∃ t, exec .splitT s = .next t ∧ FailedFrom s t .sizeMismatch 0) ∧
    (s.imgW % 4 = 0 → s.imgH % 8 = 0 → 256 < s.imgW / 4 * (s.imgH / 8) →
      ∃ t, exec .splitT s = .next t ∧ FailedFrom s t .tooManyTiles 0) ∧
    (s.imgW % 4 = 0 → s.imgH % 8 = 0 → s.imgW / 4 * (s.imgH / 8) ≤ 256 →
      exec .splitT s =
        .next { s with nblk := s.imgW / 4 * (s.imgH / 8), bpb := 8, phase := .resolve, blk := 0 })

/-- Tier 2. R121: sprite block `k` is the strip of columns `12k` to `12k + 11` over the whole height, and every pixel of the image
is in exactly one block. -/
def Obligations.FramesPartitionTheImage : Prop :=
  ∀ w h n : Nat, w = 12 * n →
    (∀ k < n, blockS h k = ⟨12 * k, 0, 12, h⟩ ∧ (blockS h k).x0 + 12 ≤ w) ∧
    (∀ x y, x < w → y < h →
      ∃ k < n, (∀ j < n, ((blockS h j).x0 ≤ x ∧ x < (blockS h j).x0 + 12) ↔ j = k))

/-- Tier 2. R123: tile `k` is at column `k mod TCOLS` and row `k div TCOLS` of the tile grid, inside the image, and every pixel is
in exactly one tile. -/
def Obligations.TilesPartitionTheImage : Prop :=
  ∀ w h : Nat, w % 4 = 0 → h % 8 = 0 →
    (∀ k < w / 4 * (h / 8), (blockT w k).x0 + 4 ≤ w ∧ (blockT w k).y0 + 8 ≤ h ∧
      (blockT w k).w = 4 ∧ (blockT w k).h = 8 ∧
      (blockT w k).x0 = 4 * (k % (w / 4)) ∧ (blockT w k).y0 = 8 * (k / (w / 4))) ∧
    (∀ x y, x < w → y < h →
      ∃ k < w / 4 * (h / 8), (∀ j < w / 4 * (h / 8),
        ((blockT w j).x0 ≤ x ∧ x < (blockT w j).x0 + 4 ∧ (blockT w j).y0 ≤ y ∧ y < (blockT w j).y0 + 8) ↔ j = k))

/-! ### The Palette Resolver -/

/-- Tier 2. R143, R144, R146, R147, R148: when and how RESOLVE.S fails. `img` is the image's pixels. The order of the clauses is
the order of the checks: a clause assumes that the earlier ones do not apply. A constraint is found among the distinct
colours or among the padding zeros. -/
def Obligations.ResolveSpriteFailures : Prop :=
  ∀ s : State, ∀ img : List Idx, img = blockPixels (pixRead s) ⟨0, 0, s.imgW, s.imgH⟩ →
    (4 < img.toFinset.card → ∃ t, exec .resolveS s = .next t ∧ FailedFrom s t .tooManyColors 0) ∧
    (img.toFinset.card ≤ 4 →
      (s.tcEn = true → s.scEn = true → s.tc = s.sc →
        ∃ t, exec .resolveS s = .next t ∧ FailedFrom s t .colorNotFound 0) ∧
      (s.tcEn = true → s.tc.zeroExtend 8 ∉ img → (s.tc ≠ 0 ∨ img.toFinset.card = 4) →
        ∃ t, exec .resolveS s = .next t ∧ FailedFrom s t .colorNotFound 0) ∧
      (s.scEn = true → s.sc.zeroExtend 8 ∉ img → (s.sc ≠ 0 ∨ img.toFinset.card = 4) →
        ∃ t, exec .resolveS s = .next t ∧ FailedFrom s t .colorNotFound 0))

/-- Tier 2. R141 with R145, R147, R148, R150 and the properties R151 (a) to (d): when RESOLVE.S succeeds, it writes SEEN, CT and
the position and nothing else. CT is a permutation of the distinct colours padded with zeros to four, `tc` stands at 0, `sc`
at 2, and the other entries ascend: together these determine CT. -/
def Obligations.ResolveSpriteTable : Prop :=
  ∀ s : State, ∀ img : List Idx, img = blockPixels (pixRead s) ⟨0, 0, s.imgW, s.imgH⟩ →
    img.toFinset.card ≤ 4 →
    ¬ (s.tcEn = true ∧ s.scEn = true ∧ s.tc = s.sc) →
    (s.tcEn = true → s.tc.zeroExtend 8 ∈ img ∨ (s.tc = 0 ∧ img.toFinset.card < 4)) →
    (s.scEn = true → s.sc.zeroExtend 8 ∈ img ∨ (s.sc = 0 ∧ img.toFinset.card < 4)) →
    ∃ seen ct, exec .resolveS s = .next { s with seen := seen, ct := ct, phase := .pack, blk := 0 } ∧
      seen.Perm (img.dedup ++ List.replicate (4 - img.toFinset.card) 0) ∧
      ct.toList.Perm (img.dedup ++ List.replicate (4 - img.toFinset.card) 0) ∧
      (s.tcEn = true → ct.c0 = s.tc.zeroExtend 8) ∧
      (s.scEn = true → ct.c2 = s.sc.zeroExtend 8) ∧
      (s.tcEn = false → s.scEn = false → ct.c0 ≤ ct.c1 ∧ ct.c1 ≤ ct.c2 ∧ ct.c2 ≤ ct.c3) ∧
      (s.tcEn = true → s.scEn = false → ct.c1 ≤ ct.c2 ∧ ct.c2 ≤ ct.c3) ∧
      (s.tcEn = false → s.scEn = true → ct.c0 ≤ ct.c1 ∧ ct.c1 ≤ ct.c3) ∧
      (s.tcEn = true → s.scEn = true → ct.c1 ≤ ct.c3)

/-- Tier 2. R153 with R154 to R158: RESOLVE.T at tile BLK, by the set `fgs` of the tile's colours that are not shared. More than
one: AmbiguousForeground(BLK). One above 7: ForegroundOutOfRange(BLK). Else the table is the shared colours in order and
the foreground, which is 0 when there is none; TSET, NS, CT, FG and the position are written and nothing else. -/
def Obligations.ResolveTileTable : Prop :=
  decodeSelector 0b1010#4 = .ok .resolveT ∧
  ∀ s : State, ∀ img : List Idx, img = blockPixels (pixRead s)
      ⟨4 * (s.blk % (s.imgW / 4)), 8 * (s.blk / (s.imgW / 4)), 4, 8⟩ →
    ∀ fgs : Finset Idx, fgs = img.toFinset \ {s.sh0, s.sh1, s.sh2} →
    (1 < fgs.card → ∃ t, exec .resolveT s = .next t ∧ FailedFrom s t .ambiguousForeground s.blk) ∧
    (∀ f, fgs = {f} → 7 < f.toNat → ∃ t, exec .resolveT s = .next t ∧ FailedFrom s t .foregroundOutOfRange s.blk) ∧
    (∀ f, (fgs = {f} ∧ f.toNat ≤ 7) ∨ (fgs = ∅ ∧ f = 0) →
      ∃ tset ns, exec .resolveT s = .next { s with
          tset := tset, ns := ns, ct := ⟨s.sh0, s.sh1, s.sh2, f⟩, fg := f, phase := .pack, blk := s.blk } ∧
        tset.Nodup ∧ tset.toFinset = img.toFinset ∧ ns = tset.filter (fun p => p ∉ [s.sh0, s.sh1, s.sh2]))

/-! ### The Pixel Packer -/

/-- Tier 2. R170 with R171, R172 and R173, for either mode bit `m` of PACK's selector: when every pixel of the block is in CT,
PACK appends `(w div 4) * h` bytes and moves on; lane `i` of the byte of row `r` and group `g` is the lowest position in CT
of the pixel it packs. Nothing else changes. -/
def Obligations.PackAppendsTheBlock : Prop :=
  ∀ (m : Mode) (s : State) (b : Block),
    b = (match m with
      | .sprite => ⟨12 * s.blk, 0, 12, s.imgH⟩
      | .tileset => ⟨4 * (s.blk % (s.imgW / 4)), 8 * (s.blk / (s.imgW / 4)), 4, 8⟩) →
    (∀ x y, b.x0 ≤ x → x < b.x0 + b.w → b.y0 ≤ y → y < b.y0 + b.h → pixRead s x y ∈ s.ct.toList) →
    ∃ bytes p k, exec (.pack m) s = .next { s with pixStage := s.pixStage ++ bytes, phase := p, blk := k } ∧
      (p, k) = (match m with
        | .sprite => if s.blk + 1 < s.nblk then (.pack, s.blk + 1) else (.emit, 0)
        | .tileset => (.attr, s.blk)) ∧
      bytes.length = b.w / 4 * b.h ∧
      ∀ r g i, r < b.h → g < b.w / 4 → i < 4 →
        ∃ v, bytes[r * (b.w / 4) + g]? = some v ∧
          s.ct.get (v.extractLsb' (6 - 2 * i) 2) = pixRead s (b.x0 + 4 * g + i) (b.y0 + r) ∧
          ∀ j : BitVec 2, j < v.extractLsb' (6 - 2 * i) 2 → s.ct.get j ≠ pixRead s (b.x0 + 4 * g + i) (b.y0 + r)

/-- Tier 2. R174: when a pixel of the block is not in CT, PACK raises ColorNotInTable with the block index. -/
def Obligations.PackRaisesColorNotInTable : Prop :=
  ∀ (m : Mode) (s : State) (b : Block) (x y : Nat), b = blockOf m s.imgW s.imgH s.blk →
    b.x0 ≤ x → x < b.x0 + b.w → b.y0 ≤ y → y < b.y0 + b.h → pixRead s x y ∉ s.ct.toList →
    ∃ t, exec (.pack m) s = .next t ∧ FailedFrom s t .colorNotInTable s.blk

/-- Tier 2. R91, R172: a packed byte is the sum of its lanes, `c0 * 64 + c1 * 16 + c2 * 4 + c3`, and its four lanes are the four
codes. -/
def Obligations.PackedByteIsTheSumOfItsLanes : Prop :=
  ∀ (t : ColorTable) (p0 p1 p2 p3 : Idx), p0 ∈ t.toList → p1 ∈ t.toList → p2 ∈ t.toList → p3 ∈ t.toList →
    ∃ v, packGroup t p0 p1 p2 p3 = some v ∧
      v.toNat = (laneOf v 0).toNat * 64 + (laneOf v 1).toNat * 16 + (laneOf v 2).toNat * 4 + (laneOf v 3).toNat ∧
      (laneOf v 0).toNat = t.toList.findIdx (· == p0) ∧ (laneOf v 1).toNat = t.toList.findIdx (· == p1) ∧
      (laneOf v 2).toNat = t.toList.findIdx (· == p2) ∧ (laneOf v 3).toNat = t.toList.findIdx (· == p3)

/-! ### The Tile Attribute Deriver and the Encoder Output -/

/-- Tier 1. R185: ATTR appends `FG + 8` and moves to the next tile or to EMIT; it cannot fail (R187), and does not look at ATTR_EN
(R188). For FG in 0..7 the byte is `FG + 8` without wrapping, `0b00001 :: FG[2:0]`. -/
def Obligations.AttrAppendsTheAttributeByte : Prop :=
  decodeSelector 0b1100#4 = .ok .attr ∧
  (∀ s : State, exec .attr s = .next (if s.blk + 1 < s.nblk
    then { s with attrStage := s.attrStage ++ [s.fg + 8#8], phase := .resolve, blk := s.blk + 1 }
    else { s with attrStage := s.attrStage ++ [s.fg + 8#8], phase := .emit, blk := 0 })) ∧
  (∀ fg : Idx, fg.toNat ≤ 7 → (fg + 8#8).toNat = fg.toNat + 8 ∧ fg + 8#8 = 0b00001#5 ++ fg.extractLsb' 0 3)

/-- Tier 1. R190: EMIT.S commits the staged pixel bytes and no attribute bytes. -/
def Obligations.EmitSpriteCommits : Prop :=
  decodeSelector 0b0101#4 = .ok .emitS ∧
  ∀ s : State, exec .emitS s = .next { s with
    pixOut := s.pixStage, attrOut := [], pixLen := s.pixStage.length, attrLen := 0,
    life := .done, phase := .none, blk := 0 }

/-- Tier 1. R191: EMIT.T commits the staged pixel bytes, and the staged attribute bytes when ATTR_EN = 1. -/
def Obligations.EmitTilesetCommits : Prop :=
  decodeSelector 0b1101#4 = .ok .emitT ∧
  ∀ s : State,
    (s.attrEn = true → exec .emitT s = .next { s with
      pixOut := s.pixStage, attrOut := s.attrStage, pixLen := s.pixStage.length, attrLen := s.attrStage.length,
      life := .done, phase := .none, blk := 0 }) ∧
    (s.attrEn = false → exec .emitT s = .next { s with
      pixOut := s.pixStage, attrOut := [], pixLen := s.pixStage.length, attrLen := 0,
      life := .done, phase := .none, blk := 0 })

/-! ### Failures and the life cycle -/

/-- Tier 2. R240: entering a failure records the kind's code and the index, keeps PHASE, clears every result, staging and output
memory and working set, sets FAILED, and changes no RW register and no pixel; and that is what every failing operation
does: the index is BLK for the kinds that name a block and 0 for the others (R230). The sequencer of a FAILED block executes
nothing further. -/
def Obligations.FailureEntryDiscardsEverything : Prop :=
  (∀ k idx s, FailedFrom s (raise k idx s) k idx) ∧
  (∀ s : State, s.life = .failed → sequencerTurn s = .next s) ∧
  (∀ i s t, s.life = .busy → exec i s = .next t → t.life = .failed →
    ∃ k, FailedFrom s t k (if k.perBlock then s.blk else 0) ∧ ∀ x y, pixRead t x y = pixRead s x y)

/-- Tier 2. R242: FAILED is left only by CONV, CLR or reset. -/
def Obligations.FailedIsLeftOnlyByCommandOrReset : Prop :=
  ∀ s t : State, s.life = .failed → step s = .next t → t.life ≠ .failed →
    (∃ v q, s.host = .wr 0 v :: q ∧ (v % 256 = 1 ∨ v % 256 = 2)) ∨ (∃ q, s.host = .reset :: q)

/-- Tier 2. R27: what sets STATE. BUSY is entered only by CONV, DONE only by an EMIT operation of a BUSY block, FAILED only by an
operation of a BUSY block, IDLE only by CLR or reset. -/
def Obligations.StateIsSetOnlyByItsCauses : Prop :=
  ∀ s t : State, step s = .next t → t.life ≠ s.life →
    (t.life = .busy → ∃ v q, s.host = .wr 0 v :: q ∧ v % 256 = 1) ∧
    (t.life = .done → s.life = .busy ∧ s.phase = .emit) ∧
    (t.life = .failed → s.life = .busy ∧ t.err ≠ none) ∧
    (t.life = .idle → (∃ v q, s.host = .wr 0 v :: q ∧ v % 256 = 2) ∨ (∃ q, s.host = .reset :: q))

/-- Tier 2. R177 (itself marked derived), in every state that satisfies the invariant: the PACK of a conversion in progress does
not fail. It rests on the model's choice of log entry 6, that a host write to PIX while BUSY is refused (U5): the invariant
says that every pixel of the block is in CT, and it is kept only because PIX stands still. -/
def Obligations.PackNeverFailsInAConversion : Prop :=
  ∀ s : State, Inv s → s.life = .busy → s.phase = .pack →
    ∃ t, exec (.pack s.mode) s = .next t ∧ t.life = .busy ∧ t.err = none

/-! ### Invariants -/

/-- Tier 1. The invariant holds at reset. -/
def Obligations.InvariantHoldsAtReset : Prop :=
  Inv State.reset

/-- Tier 3. Every step keeps the invariant, from every state that satisfies it and for every schedule of host moves that the model
has: PIX keeps its canonical form, FG is 0..7, a conversion in progress is at a position of its fixed sequence with as many
bytes staged as the sequence has packed so far and nothing visible, DONE has lengths that agree, IDLE and FAILED hold no
result, and a recorded failure is at the component that raises it. That the pixels to pack stay in CT and that no recorded
failure is ColorNotInTable rest on the model's choice of log entry 6: a host write to PIX while BUSY is refused (U5). -/
def Obligations.EveryStepKeepsTheInvariant : Prop :=
  ∀ s t : State, Inv s → step s = .next t → Inv t

/-- Tier 2. No reachable state faults: from a state that satisfies the invariant no step answers a fault (R100: the selectors that
are no operation "are never reached"). -/
def Obligations.NoFaultUnderTheInvariant : Prop :=
  ∀ (s : State) (f : Fault), Inv s → step s ≠ .fault f

/-- Tier 2. R29, R127, R41: under the invariant every register's value fits the register's width. -/
def Obligations.RegistersFitTheirWidths : Prop :=
  ∀ (s : State) (n : Nat), Inv s → n ≤ 20 → readReg s n < 2 ^ regWidth s.cfg n

/-- Tier 2. R79: under the invariant a step makes an output memory non-empty only by ending in DONE, and then both are complete:
PIX_OUT is all that was staged, its length is NBLK * BPB, and the length registers say so. -/
def Obligations.OutputIsAllOrNothing : Prop :=
  ∀ s t : State, Inv s → step s = .next t →
    (t.life ≠ .done → t.attrOut = [] ∧ t.pixOut = []) ∧
    (t.life = .done → readReg t 20 = t.pixOut.length ∧ readReg t 20 = readReg t 12 * readReg t 13 ∧
      readReg t 19 = t.attrOut.length ∧
      (s.life = .busy → t.pixOut = s.pixStage ∧
        t.attrOut = if s.mode = .tileset ∧ s.attrEn = true then s.attrStage else []))

/-! ### The whole conversion -/

/-- Tier 3. R205, R206, R207, R211, R212: a CONV that meets its preconditions, followed by the sequencer alone, ends after at most
`3 * (IMG_W * IMG_H) + 4` steps, in DONE with exactly what `Convert` gives, or in FAILED with exactly the failure it gives and
every result cleared; the configuration and PIX are as before. -/
def Obligations.ConversionEndsAsConvertSays : Prop :=
  ∀ s : State, s.life ≠ .busy → s.host = [.wr 0 1] → LegalConfig s →
    ∃ n t, n ≤ 3 * (s.imgW * s.imgH) + 4 ∧ core.run n s = .next t ∧ SameInputs { s with host := [] } t ∧
      (match convert s.convConfig (pixRead s) with
      | .ok o => t.life = .done ∧ t.phase = .none ∧ t.blk = 0 ∧ t.err = none ∧ t.errIdx = 0 ∧
          t.attrOut = o.attrOut ∧ t.pixOut = o.pixOut ∧ t.attrLen = o.attrOut.length ∧ t.pixLen = o.pixOut.length ∧
          t.nblk = o.nblk ∧ t.bpb = o.bpb ∧ t.ct = o.ct ∧ t.fg = o.fg
      | .error e => t.life = .failed ∧ t.err = some e.kind ∧ t.phase = e.phase ∧ t.errIdx = e.idx ∧ t.blk = 0 ∧
          Cleared t)

/-- Tier 3. R212: from every state that satisfies the invariant, a conversion in progress that the host leaves alone leaves BUSY
within `3 * (IMG_W * IMG_H) + 3` steps, in DONE or FAILED. -/
def Obligations.EveryConversionEnds : Prop :=
  ∀ s : State, Inv s → s.life = .busy → s.host = [] →
    ∃ n t, n ≤ 3 * (s.imgW * s.imgH) + 3 ∧ core.run n s = .next t ∧ (t.life = .done ∨ t.life = .failed)

/-- Tier 3. R178 for sprites, with R76: decoding the packed output through the ColorTable gives back every pixel of the image; the
byte of pixel `(x, y)` is at offset `(x div 12) * BPB + 3 * y + (x mod 12) div 4`, lane `x mod 4`. -/
def Obligations.SpriteOutputDecodesToTheImage : Prop :=
  ∀ (c : ConvConfig) (g : Nat → Nat → Idx) (o : ConvOutput), c.mode = .sprite → convert c g = .ok o →
    ∀ x y, x < c.w → y < c.h →
      ∃ v, o.pixOut[x / 12 * o.bpb + 3 * y + x % 12 / 4]? = some v ∧
        o.ct.get (v.extractLsb' (6 - 2 * (x % 4)) 2) = g x y

/-- Tier 3. R178 for tilesets, with R76, R77 and R40: with attributes emitted, the table of tile `k` is the shared colours and
`ATTR_OUT[k] - 8`, and decoding the packed bytes of tile `k` through it gives back every pixel of the image; the byte of
pixel `(x, y)` is at offset `8 * k + y mod 8`, lane `x mod 4`. -/
def Obligations.TilesetOutputDecodesToTheImage : Prop :=
  ∀ (c : ConvConfig) (g : Nat → Nat → Idx) (o : ConvOutput), c.mode = .tileset → c.attrEn = true →
    convert c g = .ok o →
    ∀ x y k, x < c.w → y < c.h → k = y / 8 * (c.w / 4) + x / 4 →
      ∃ v a, o.pixOut[8 * k + y % 8]? = some v ∧ o.attrOut[k]? = some a ∧ 8 ≤ a.toNat ∧ a.toNat ≤ 15 ∧
        (ColorTable.mk c.sh0 c.sh1 c.sh2 (a - 8#8)).get (v.extractLsb' (6 - 2 * (x % 4)) 2) = g x y

/-- Tier 2. R239, tileset mode: a wrong size is reported before a wrong tile count and before anything about colours, and the
failure reported for a tile is the first in tile-scan order: every earlier tile converts. -/
def Obligations.FirstFailureIsReported : Prop :=
  ∀ (c : ConvConfig) (g : Nat → Nat → Idx), c.mode = .tileset →
    (c.w % 4 ≠ 0 ∨ c.h % 8 ≠ 0 → convert c g = .error ⟨.sizeMismatch, .split, 0⟩) ∧
    (c.w % 4 = 0 → c.h % 8 = 0 → 256 < c.w / 4 * (c.h / 8) → convert c g = .error ⟨.tooManyTiles, .split, 0⟩) ∧
    (∀ e, c.w % 4 = 0 → c.h % 8 = 0 → c.w / 4 * (c.h / 8) ≤ 256 → convert c g = .error e →
      e.idx < c.w / 4 * (c.h / 8) ∧ convertTile c g e.idx = .error e ∧
      ∀ k < e.idx, ∃ r, convertTile c g k = .ok r)

/-- Tier 2. R34, R23: each mode ignores the other's configuration. Sprite conversions do not depend on SH[0..2] or ATTR_EN, tileset
conversions not on `tc` or `sc`. -/
def Obligations.ModesIgnoreEachOthersConfiguration : Prop :=
  ∀ (s t : State), s.mode = t.mode → s.imgW = t.imgW → s.imgH = t.imgH → pixRead s = pixRead t →
    (s.mode = .sprite → s.tcEn = t.tcEn → s.scEn = t.scEn → s.tc = t.tc → s.sc = t.sc →
      convert s.convConfig (pixRead s) = convert t.convConfig (pixRead t)) ∧
    (s.mode = .tileset → s.attrEn = t.attrEn → s.sh0 = t.sh0 → s.sh1 = t.sh1 → s.sh2 = t.sh2 →
      convert s.convConfig (pixRead s) = convert t.convConfig (pixRead t))

/-! ### Fields and contents -/

/-- Tier 1. R34: the fields of CTRL by bit position, as the host reads it: MODE bit 0, ATTR_EN bit 1, TC_EN bit 2, SC_EN bit 3,
and bits 7:4 read 0. The constraints given to RESOLVE.S are TC and SC where their bit is 1 (R94 (a)). -/
def Obligations.CtrlFieldsByBit : Prop :=
  ∀ s : State,
    (s.mode = .tileset ↔ readReg s 4 % 2 = 1) ∧ (s.attrEn = true ↔ readReg s 4 / 2 % 2 = 1) ∧
    (s.tcEn = true ↔ readReg s 4 / 4 % 2 = 1) ∧ (s.scEn = true ↔ readReg s 4 / 8 % 2 = 1) ∧ readReg s 4 / 16 = 0 ∧
    (tcOperand s).map BitVec.toNat = (if readReg s 4 / 4 % 2 = 1 then some (readReg s 5) else none) ∧
    (scOperand s).map BitVec.toNat = (if readReg s 4 / 8 % 2 = 1 then some (readReg s 6) else none)

/-- Tier 1. R29: the table of the register file in numbers: each register's access class, width and what it holds. The result
registers read 0 while BUSY (R42), so what they hold is said of a block that is not BUSY. -/
def Obligations.RegisterFileTable : Prop :=
  (∀ n, (regAccess n = .w ↔ n = 0) ∧ (regAccess n = .r ↔ (1 ≤ n ∧ n ≤ 3) ∨ (12 ≤ n ∧ n ≤ 20)) ∧
    (regAccess n = .rw ↔ 4 ≤ n ∧ n ≤ 11) ∧ (regAccess n = .absent ↔ 21 ≤ n)) ∧
  (∀ c : Config, (List.range 21).map (regWidth c) =
    [8, 8, 8, c.dimBits, 8, 4, 4, 8, 8, 8, c.dimBits, c.dimBits, c.dimBits, c.dimBits + 2, 8, 8, 8, 8, 8, 9,
      2 * c.dimBits]) ∧
  (∀ s : State, s.life ≠ .busy →
    readReg s 3 = s.errIdx ∧ readReg s 4 = s.ctrl.toNat ∧ readReg s 5 = s.tc.toNat ∧ readReg s 6 = s.sc.toNat ∧
    readReg s 7 = s.sh0.toNat ∧ readReg s 8 = s.sh1.toNat ∧ readReg s 9 = s.sh2.toNat ∧ readReg s 10 = s.imgW ∧
    readReg s 11 = s.imgH ∧ readReg s 12 = s.nblk ∧ readReg s 13 = s.bpb ∧ readReg s 14 = s.ct.c0.toNat ∧
    readReg s 15 = s.ct.c1.toNat ∧ readReg s 16 = s.ct.c2.toNat ∧ readReg s 17 = s.ct.c3.toNat ∧
    readReg s 18 = s.fg.toNat ∧ readReg s 19 = s.attrLen ∧ readReg s 20 = s.pixLen)

/-- Tier 3. Every step keeps what is staged exact, from every state that satisfies the invariant: at each position of a conversion in
progress PIX_STAGE is the PackedBlocks of the blocks packed so far, in block order and each under its own table, ATTR_STAGE is
the attribute bytes of the tiles derived so far in tile-scan order, and CT (sprite) or FG (tile BLK, once resolved) is what
the resolver gives for the pixels. It rests on the model's choice of log entry 6: a host write to PIX while BUSY is refused
(U5). -/
def Obligations.EveryStepKeepsTheStagedContents : Prop :=
  ∀ s t : State, Inv s → (s.life = .busy → StagedContents s) → step s = .next t →
    (t.life = .busy → StagedContents t)
end

