-- ==== Sys2Proof/Laws/Convert.lean ====
section
/-! SUPPORT. What the loops of `Convert` (R211) do with one block: cited by proofs instead of unfolding them. -/

namespace Sys2Proof.Machine

@[simp] theorem convertFrames_nil (g : Nat → Nat → Idx) (h : Nat) (ct : ColorTable) (pix : List Byte) :
    convertFrames g h ct [] pix = .ok pix := rfl

theorem convertFrames_cons_none {g : Nat → Nat → Idx} {h k : Nat} {ct : ColorTable} (l : List Nat) (pix : List Byte)
    (e : packBlock g ct (blockS h k) = none) :
    convertFrames g h ct (k :: l) pix = .error ⟨.colorNotInTable, .pack, k⟩ := by
  simp only [convertFrames, e]

theorem convertFrames_cons_some {g : Nat → Nat → Idx} {h k : Nat} {ct : ColorTable} {bytes : List Byte} (l : List Nat)
    (pix : List Byte) (e : packBlock g ct (blockS h k) = some bytes) :
    convertFrames g h ct (k :: l) pix = convertFrames g h ct l (pix ++ bytes) := by
  simp only [convertFrames, e]

@[simp] theorem convertTiles_nil (c : ConvConfig) (g : Nat → Nat → Idx) (acc : ConvOutput) :
    convertTiles c g [] acc = .ok acc := rfl

theorem convertTiles_cons (c : ConvConfig) (g : Nat → Nat → Idx) (k : Nat) (l : List Nat) (acc : ConvOutput) :
    convertTiles c g (k :: l) acc = (convertTile c g k).bind fun r => convertTiles c g l
      { acc with
        ct := r.1, fg := r.2.1, attrOut := acc.attrOut ++ [attrByte r.2.1], pixOut := acc.pixOut ++ r.2.2 } := rfl

theorem convertTiles_cons_error {c : ConvConfig} {g : Nat → Nat → Idx} {k : Nat} {e : ConvFailure} (l : List Nat)
    (acc : ConvOutput) (h : convertTile c g k = .error e) : convertTiles c g (k :: l) acc = .error e := by
  rw [convertTiles_cons, h]; rfl

theorem convertTiles_cons_ok {c : ConvConfig} {g : Nat → Nat → Idx} {k : Nat} {r : ColorTable × Idx × List Byte}
    (l : List Nat) (acc : ConvOutput) (h : convertTile c g k = .ok r) :
    convertTiles c g (k :: l) acc = convertTiles c g l
      { acc with
        ct := r.1, fg := r.2.1, attrOut := acc.attrOut ++ [attrByte r.2.1], pixOut := acc.pixOut ++ r.2.2 } := by
  rw [convertTiles_cons, h]; rfl

/-- One tile, by its resolution and its packing. -/
theorem convertTile_cases (c : ConvConfig) (g : Nat → Nat → Idx) (k : Nat) :
    (∃ e, resolveTile (nonShared c.sh0 c.sh1 c.sh2 (distinct (blockPixels g (blockT c.w k)))) = .error e ∧
      convertTile c g k = .error ⟨e, .resolve, k⟩) ∨
    (∃ fg, resolveTile (nonShared c.sh0 c.sh1 c.sh2 (distinct (blockPixels g (blockT c.w k)))) = .ok fg ∧
      packBlock g ⟨c.sh0, c.sh1, c.sh2, fg⟩ (blockT c.w k) = none ∧
      convertTile c g k = .error ⟨.colorNotInTable, .pack, k⟩) ∨
    (∃ fg bytes, resolveTile (nonShared c.sh0 c.sh1 c.sh2 (distinct (blockPixels g (blockT c.w k)))) = .ok fg ∧
      packBlock g ⟨c.sh0, c.sh1, c.sh2, fg⟩ (blockT c.w k) = some bytes ∧
      convertTile c g k = .ok (⟨c.sh0, c.sh1, c.sh2, fg⟩, fg, bytes)) := by
  unfold convertTile
  cases h : resolveTile (nonShared c.sh0 c.sh1 c.sh2 (distinct (blockPixels g (blockT c.w k)))) with
  | error e => exact .inl ⟨e, rfl, rfl⟩
  | ok fg =>
    cases hp : packBlock g ⟨c.sh0, c.sh1, c.sh2, fg⟩ (blockT c.w k) with
    | none => exact .inr (.inl ⟨fg, rfl, hp, by simp only [hp]⟩)
    | some bytes => exact .inr (.inr ⟨fg, bytes, rfl, hp, by simp only [hp]⟩)

end Sys2Proof.Machine
end

