-- ==== Sys2Proof/Laws/Seq.lean ====
section
/-! SUPPORT. One law per sequence primitive of R11. -/

namespace Sys2Proof.Machine

@[simp] theorem contains_iff {s : List Idx} {v : Idx} : contains s v = true ↔ v ∈ s := by
  simp [contains]

theorem contains_eq_false_iff {s : List Idx} {v : Idx} : contains s v = false ↔ v ∉ s := by
  rw [← Bool.not_eq_true, contains_iff]

theorem indexOf_lt {s : List Idx} {v : Idx} (h : v ∈ s) : indexOf s v < s.length := by
  induction s with
  | nil => simp at h
  | cons a l ih =>
    unfold indexOf
    split
    · simp
    · next hne => simp at h; rcases h with h | h
                  · exact absurd h.symm hne
                  · simpa using ih h

theorem getD_indexOf {s : List Idx} {v d : Idx} (h : v ∈ s) : s.getD (indexOf s v) d = v := by
  induction s with
  | nil => simp at h
  | cons a l ih =>
    unfold indexOf
    split
    · next e => simpa using e
    · next hne => simp at h; rcases h with h | h
                  · exact absurd h.symm hne
                  · simpa using ih h

theorem getD_ne_of_lt_indexOf {s : List Idx} {v d : Idx} {j : Nat} (h : v ∈ s) (hj : j < indexOf s v) :
    s.getD j d ≠ v := by
  induction s generalizing j with
  | nil => simp at h
  | cons a l ih =>
    unfold indexOf at hj
    split at hj
    · simp at hj
    · next hne =>
      cases j with
      | zero => simpa using hne
      | succ j =>
        simp at h; rcases h with h | h
        · exact absurd h.symm hne
        · simpa using ih h (by omega)

theorem removeFirst_eq_erase (s : List Idx) (v : Idx) : removeFirst s v = s.erase v := by
  induction s with
  | nil => rfl
  | cons a l ih => simp only [removeFirst, List.erase_cons, ih, beq_iff_eq]

theorem insertAsc_perm (v : Idx) (s : List Idx) : (insertAsc v s).Perm (v :: s) := by
  induction s with
  | nil => exact List.Perm.refl _
  | cons a l ih =>
    unfold insertAsc
    split
    · exact List.Perm.refl _
    · exact (ih.cons a).trans (List.Perm.swap v a l)

/-- `sort_asc` permutes. -/
theorem sortAsc_perm (s : List Idx) : (sortAsc s).Perm s := by
  induction s with
  | nil => exact List.Perm.refl _
  | cons a l ih => exact (insertAsc_perm a _).trans (ih.cons a)

theorem insertAsc_sorted {v : Idx} {s : List Idx} (h : s.Pairwise fun a b => a.toNat ≤ b.toNat) :
    (insertAsc v s).Pairwise fun a b => a.toNat ≤ b.toNat := by
  induction s with
  | nil => simp [insertAsc]
  | cons a l ih =>
    rw [List.pairwise_cons] at h
    unfold insertAsc
    split
    · next hv =>
      refine List.pairwise_cons.2 ⟨fun b hb => ?_, List.pairwise_cons.2 h⟩
      rcases List.mem_cons.1 hb with rfl | hb
      · exact hv
      · exact hv.trans (h.1 b hb)
    · next hv =>
      refine List.pairwise_cons.2 ⟨fun b hb => ?_, ih h.2⟩
      rcases List.mem_cons.1 ((insertAsc_perm v l).mem_iff.1 hb) with rfl | hb
      · omega
      · exact h.1 b hb

/-- `sort_asc` sorts. -/
theorem sortAsc_sorted (s : List Idx) : (sortAsc s).Pairwise fun a b => a.toNat ≤ b.toNat := by
  induction s with
  | nil => exact List.Pairwise.nil
  | cons a l ih => exact insertAsc_sorted ih

theorem addNew_nodup {acc : List Idx} {p : Idx} (h : acc.Nodup) : (addNew acc p).Nodup := by
  unfold addNew
  split
  · exact h
  · next hc =>
    have hp : p ∉ acc := fun hm => hc (contains_iff.2 hm)
    exact List.nodup_append.2 ⟨h, by simp, fun a ha b hb => by simp at hb; subst hb; exact fun e => hp (e ▸ ha)⟩

theorem mem_addNew {acc : List Idx} {p q : Idx} : q ∈ addNew acc p ↔ q ∈ acc ∨ q = p := by
  unfold addNew
  split
  · next hc => constructor
               · exact Or.inl
               · rintro (h | rfl)
                 · exact h
                 · exact contains_iff.1 hc
  · simp

theorem foldl_addNew (ps acc : List Idx) (h : acc.Nodup) :
    (ps.foldl addNew acc).Nodup ∧ ∀ q, q ∈ ps.foldl addNew acc ↔ q ∈ acc ∨ q ∈ ps := by
  induction ps generalizing acc with
  | nil => simpa using h
  | cons p l ih =>
    obtain ⟨h1, h2⟩ := ih (addNew acc p) (addNew_nodup h)
    refine ⟨h1, fun q => ?_⟩
    rw [List.foldl_cons, h2, mem_addNew, List.mem_cons, or_assoc]

/-- The collection has no repeats. -/
theorem distinct_nodup (ps : List Idx) : (distinct ps).Nodup := by
  unfold distinct
  exact (foldl_addNew ps [] List.nodup_nil).1

/-- The collection has exactly the indices that occur. -/
@[simp] theorem mem_distinct {ps : List Idx} {q : Idx} : q ∈ distinct ps ↔ q ∈ ps := by
  simp [distinct, (foldl_addNew ps [] List.nodup_nil).2 q]

/-- How many distinct indices occur. -/
theorem distinct_length (ps : List Idx) : (distinct ps).length = ps.toFinset.card := by
  rw [← List.toFinset_card_of_nodup (distinct_nodup ps)]
  congr 1
  ext q
  simp

end Sys2Proof.Machine
end

