-- ==== Sys2Proof/Laws/State.lean ====
section
/-! SUPPORT. One lemma per field per state update, each true by rfl and a simp rule, so that no proof unfolds a record
update; and the fields that a PIX write and the bits that CTRL leave alone. -/

namespace Sys2Proof.Machine

section setPosFields

variable (s : State) (p : Phase) (k : Nat)

@[simp] theorem setPos_cfg : (setPos s p k).cfg = s.cfg := rfl
@[simp] theorem setPos_life : (setPos s p k).life = s.life := rfl
@[simp] theorem setPos_phase : (setPos s p k).phase = p := rfl
@[simp] theorem setPos_blk : (setPos s p k).blk = k := rfl
@[simp] theorem setPos_err : (setPos s p k).err = s.err := rfl
@[simp] theorem setPos_errIdx : (setPos s p k).errIdx = s.errIdx := rfl
@[simp] theorem setPos_ctrl : (setPos s p k).ctrl = s.ctrl := rfl
@[simp] theorem setPos_tc : (setPos s p k).tc = s.tc := rfl
@[simp] theorem setPos_sc : (setPos s p k).sc = s.sc := rfl
@[simp] theorem setPos_sh0 : (setPos s p k).sh0 = s.sh0 := rfl
@[simp] theorem setPos_sh1 : (setPos s p k).sh1 = s.sh1 := rfl
@[simp] theorem setPos_sh2 : (setPos s p k).sh2 = s.sh2 := rfl
@[simp] theorem setPos_imgW : (setPos s p k).imgW = s.imgW := rfl
@[simp] theorem setPos_imgH : (setPos s p k).imgH = s.imgH := rfl
@[simp] theorem setPos_nblk : (setPos s p k).nblk = s.nblk := rfl
@[simp] theorem setPos_bpb : (setPos s p k).bpb = s.bpb := rfl
@[simp] theorem setPos_ct : (setPos s p k).ct = s.ct := rfl
@[simp] theorem setPos_fg : (setPos s p k).fg = s.fg := rfl
@[simp] theorem setPos_attrLen : (setPos s p k).attrLen = s.attrLen := rfl
@[simp] theorem setPos_pixLen : (setPos s p k).pixLen = s.pixLen := rfl
@[simp] theorem setPos_seen : (setPos s p k).seen = s.seen := rfl
@[simp] theorem setPos_tset : (setPos s p k).tset = s.tset := rfl
@[simp] theorem setPos_ns : (setPos s p k).ns = s.ns := rfl
@[simp] theorem setPos_pix : (setPos s p k).pix = s.pix := rfl
@[simp] theorem setPos_attrOut : (setPos s p k).attrOut = s.attrOut := rfl
@[simp] theorem setPos_pixOut : (setPos s p k).pixOut = s.pixOut := rfl
@[simp] theorem setPos_attrStage : (setPos s p k).attrStage = s.attrStage := rfl
@[simp] theorem setPos_pixStage : (setPos s p k).pixStage = s.pixStage := rfl
@[simp] theorem setPos_pixEpoch : (setPos s p k).pixEpoch = s.pixEpoch := rfl
@[simp] theorem setPos_host : (setPos s p k).host = s.host := rfl
@[simp] theorem setPos_busRead : (setPos s p k).busRead = s.busRead := rfl

end setPosFields

section appendPixFields

variable (s : State) (vs : List Byte)

@[simp] theorem appendPix_cfg : (appendPix s vs).cfg = s.cfg := rfl
@[simp] theorem appendPix_life : (appendPix s vs).life = s.life := rfl
@[simp] theorem appendPix_phase : (appendPix s vs).phase = s.phase := rfl
@[simp] theorem appendPix_blk : (appendPix s vs).blk = s.blk := rfl
@[simp] theorem appendPix_err : (appendPix s vs).err = s.err := rfl
@[simp] theorem appendPix_errIdx : (appendPix s vs).errIdx = s.errIdx := rfl
@[simp] theorem appendPix_ctrl : (appendPix s vs).ctrl = s.ctrl := rfl
@[simp] theorem appendPix_tc : (appendPix s vs).tc = s.tc := rfl
@[simp] theorem appendPix_sc : (appendPix s vs).sc = s.sc := rfl
@[simp] theorem appendPix_sh0 : (appendPix s vs).sh0 = s.sh0 := rfl
@[simp] theorem appendPix_sh1 : (appendPix s vs).sh1 = s.sh1 := rfl
@[simp] theorem appendPix_sh2 : (appendPix s vs).sh2 = s.sh2 := rfl
@[simp] theorem appendPix_imgW : (appendPix s vs).imgW = s.imgW := rfl
@[simp] theorem appendPix_imgH : (appendPix s vs).imgH = s.imgH := rfl
@[simp] theorem appendPix_nblk : (appendPix s vs).nblk = s.nblk := rfl
@[simp] theorem appendPix_bpb : (appendPix s vs).bpb = s.bpb := rfl
@[simp] theorem appendPix_ct : (appendPix s vs).ct = s.ct := rfl
@[simp] theorem appendPix_fg : (appendPix s vs).fg = s.fg := rfl
@[simp] theorem appendPix_attrLen : (appendPix s vs).attrLen = s.attrLen := rfl
@[simp] theorem appendPix_pixLen : (appendPix s vs).pixLen = s.pixLen := rfl
@[simp] theorem appendPix_seen : (appendPix s vs).seen = s.seen := rfl
@[simp] theorem appendPix_tset : (appendPix s vs).tset = s.tset := rfl
@[simp] theorem appendPix_ns : (appendPix s vs).ns = s.ns := rfl
@[simp] theorem appendPix_pix : (appendPix s vs).pix = s.pix := rfl
@[simp] theorem appendPix_attrOut : (appendPix s vs).attrOut = s.attrOut := rfl
@[simp] theorem appendPix_pixOut : (appendPix s vs).pixOut = s.pixOut := rfl
@[simp] theorem appendPix_attrStage : (appendPix s vs).attrStage = s.attrStage := rfl
@[simp] theorem appendPix_pixStage : (appendPix s vs).pixStage = s.pixStage ++ vs := rfl
@[simp] theorem appendPix_pixEpoch : (appendPix s vs).pixEpoch = s.pixEpoch := rfl
@[simp] theorem appendPix_host : (appendPix s vs).host = s.host := rfl
@[simp] theorem appendPix_busRead : (appendPix s vs).busRead = s.busRead := rfl

end appendPixFields

section appendAttrFields

variable (s : State) (v : Byte)

@[simp] theorem appendAttr_cfg : (appendAttr s v).cfg = s.cfg := rfl
@[simp] theorem appendAttr_life : (appendAttr s v).life = s.life := rfl
@[simp] theorem appendAttr_phase : (appendAttr s v).phase = s.phase := rfl
@[simp] theorem appendAttr_blk : (appendAttr s v).blk = s.blk := rfl
@[simp] theorem appendAttr_err : (appendAttr s v).err = s.err := rfl
@[simp] theorem appendAttr_errIdx : (appendAttr s v).errIdx = s.errIdx := rfl
@[simp] theorem appendAttr_ctrl : (appendAttr s v).ctrl = s.ctrl := rfl
@[simp] theorem appendAttr_tc : (appendAttr s v).tc = s.tc := rfl
@[simp] theorem appendAttr_sc : (appendAttr s v).sc = s.sc := rfl
@[simp] theorem appendAttr_sh0 : (appendAttr s v).sh0 = s.sh0 := rfl
@[simp] theorem appendAttr_sh1 : (appendAttr s v).sh1 = s.sh1 := rfl
@[simp] theorem appendAttr_sh2 : (appendAttr s v).sh2 = s.sh2 := rfl
@[simp] theorem appendAttr_imgW : (appendAttr s v).imgW = s.imgW := rfl
@[simp] theorem appendAttr_imgH : (appendAttr s v).imgH = s.imgH := rfl
@[simp] theorem appendAttr_nblk : (appendAttr s v).nblk = s.nblk := rfl
@[simp] theorem appendAttr_bpb : (appendAttr s v).bpb = s.bpb := rfl
@[simp] theorem appendAttr_ct : (appendAttr s v).ct = s.ct := rfl
@[simp] theorem appendAttr_fg : (appendAttr s v).fg = s.fg := rfl
@[simp] theorem appendAttr_attrLen : (appendAttr s v).attrLen = s.attrLen := rfl
@[simp] theorem appendAttr_pixLen : (appendAttr s v).pixLen = s.pixLen := rfl
@[simp] theorem appendAttr_seen : (appendAttr s v).seen = s.seen := rfl
@[simp] theorem appendAttr_tset : (appendAttr s v).tset = s.tset := rfl
@[simp] theorem appendAttr_ns : (appendAttr s v).ns = s.ns := rfl
@[simp] theorem appendAttr_pix : (appendAttr s v).pix = s.pix := rfl
@[simp] theorem appendAttr_attrOut : (appendAttr s v).attrOut = s.attrOut := rfl
@[simp] theorem appendAttr_pixOut : (appendAttr s v).pixOut = s.pixOut := rfl
@[simp] theorem appendAttr_attrStage : (appendAttr s v).attrStage = s.attrStage ++ [v] := rfl
@[simp] theorem appendAttr_pixStage : (appendAttr s v).pixStage = s.pixStage := rfl
@[simp] theorem appendAttr_pixEpoch : (appendAttr s v).pixEpoch = s.pixEpoch := rfl
@[simp] theorem appendAttr_host : (appendAttr s v).host = s.host := rfl
@[simp] theorem appendAttr_busRead : (appendAttr s v).busRead = s.busRead := rfl

end appendAttrFields

section clearResultsFields

variable (s : State)

@[simp] theorem clearResults_cfg : (clearResults s).cfg = s.cfg := rfl
@[simp] theorem clearResults_life : (clearResults s).life = s.life := rfl
@[simp] theorem clearResults_phase : (clearResults s).phase = s.phase := rfl
@[simp] theorem clearResults_blk : (clearResults s).blk = s.blk := rfl
@[simp] theorem clearResults_err : (clearResults s).err = s.err := rfl
@[simp] theorem clearResults_errIdx : (clearResults s).errIdx = s.errIdx := rfl
@[simp] theorem clearResults_ctrl : (clearResults s).ctrl = s.ctrl := rfl
@[simp] theorem clearResults_tc : (clearResults s).tc = s.tc := rfl
@[simp] theorem clearResults_sc : (clearResults s).sc = s.sc := rfl
@[simp] theorem clearResults_sh0 : (clearResults s).sh0 = s.sh0 := rfl
@[simp] theorem clearResults_sh1 : (clearResults s).sh1 = s.sh1 := rfl
@[simp] theorem clearResults_sh2 : (clearResults s).sh2 = s.sh2 := rfl
@[simp] theorem clearResults_imgW : (clearResults s).imgW = s.imgW := rfl
@[simp] theorem clearResults_imgH : (clearResults s).imgH = s.imgH := rfl
@[simp] theorem clearResults_nblk : (clearResults s).nblk = 0 := rfl
@[simp] theorem clearResults_bpb : (clearResults s).bpb = 0 := rfl
@[simp] theorem clearResults_ct : (clearResults s).ct = ⟨0, 0, 0, 0⟩ := rfl
@[simp] theorem clearResults_fg : (clearResults s).fg = 0 := rfl
@[simp] theorem clearResults_attrLen : (clearResults s).attrLen = 0 := rfl
@[simp] theorem clearResults_pixLen : (clearResults s).pixLen = 0 := rfl
@[simp] theorem clearResults_seen : (clearResults s).seen = [] := rfl
@[simp] theorem clearResults_tset : (clearResults s).tset = [] := rfl
@[simp] theorem clearResults_ns : (clearResults s).ns = [] := rfl
@[simp] theorem clearResults_pix : (clearResults s).pix = s.pix := rfl
@[simp] theorem clearResults_attrOut : (clearResults s).attrOut = [] := rfl
@[simp] theorem clearResults_pixOut : (clearResults s).pixOut = [] := rfl
@[simp] theorem clearResults_attrStage : (clearResults s).attrStage = [] := rfl
@[simp] theorem clearResults_pixStage : (clearResults s).pixStage = [] := rfl
@[simp] theorem clearResults_pixEpoch : (clearResults s).pixEpoch = s.pixEpoch := rfl
@[simp] theorem clearResults_host : (clearResults s).host = s.host := rfl
@[simp] theorem clearResults_busRead : (clearResults s).busRead = s.busRead := rfl

end clearResultsFields

section raiseFields

variable (e : FailKind) (i : Nat) (s : State)

@[simp] theorem raise_cfg : (raise e i s).cfg = s.cfg := rfl
@[simp] theorem raise_life : (raise e i s).life = .failed := rfl
@[simp] theorem raise_phase : (raise e i s).phase = s.phase := rfl
@[simp] theorem raise_blk : (raise e i s).blk = 0 := rfl
@[simp] theorem raise_err : (raise e i s).err = some e := rfl
@[simp] theorem raise_errIdx : (raise e i s).errIdx = i := rfl
@[simp] theorem raise_ctrl : (raise e i s).ctrl = s.ctrl := rfl
@[simp] theorem raise_tc : (raise e i s).tc = s.tc := rfl
@[simp] theorem raise_sc : (raise e i s).sc = s.sc := rfl
@[simp] theorem raise_sh0 : (raise e i s).sh0 = s.sh0 := rfl
@[simp] theorem raise_sh1 : (raise e i s).sh1 = s.sh1 := rfl
@[simp] theorem raise_sh2 : (raise e i s).sh2 = s.sh2 := rfl
@[simp] theorem raise_imgW : (raise e i s).imgW = s.imgW := rfl
@[simp] theorem raise_imgH : (raise e i s).imgH = s.imgH := rfl
@[simp] theorem raise_nblk : (raise e i s).nblk = 0 := rfl
@[simp] theorem raise_bpb : (raise e i s).bpb = 0 := rfl
@[simp] theorem raise_ct : (raise e i s).ct = ⟨0, 0, 0, 0⟩ := rfl
@[simp] theorem raise_fg : (raise e i s).fg = 0 := rfl
@[simp] theorem raise_attrLen : (raise e i s).attrLen = 0 := rfl
@[simp] theorem raise_pixLen : (raise e i s).pixLen = 0 := rfl
@[simp] theorem raise_seen : (raise e i s).seen = [] := rfl
@[simp] theorem raise_tset : (raise e i s).tset = [] := rfl
@[simp] theorem raise_ns : (raise e i s).ns = [] := rfl
@[simp] theorem raise_pix : (raise e i s).pix = s.pix := rfl
@[simp] theorem raise_attrOut : (raise e i s).attrOut = [] := rfl
@[simp] theorem raise_pixOut : (raise e i s).pixOut = [] := rfl
@[simp] theorem raise_attrStage : (raise e i s).attrStage = [] := rfl
@[simp] theorem raise_pixStage : (raise e i s).pixStage = [] := rfl
@[simp] theorem raise_pixEpoch : (raise e i s).pixEpoch = s.pixEpoch := rfl
@[simp] theorem raise_host : (raise e i s).host = s.host := rfl
@[simp] theorem raise_busRead : (raise e i s).busRead = s.busRead := rfl

end raiseFields

section startConversionFields

variable (s : State)

@[simp] theorem startConversion_cfg : (startConversion s).cfg = s.cfg := rfl
@[simp] theorem startConversion_life : (startConversion s).life = .busy := rfl
@[simp] theorem startConversion_phase : (startConversion s).phase = .split := rfl
@[simp] theorem startConversion_blk : (startConversion s).blk = 0 := rfl
@[simp] theorem startConversion_err : (startConversion s).err = none := rfl
@[simp] theorem startConversion_errIdx : (startConversion s).errIdx = 0 := rfl
@[simp] theorem startConversion_ctrl : (startConversion s).ctrl = s.ctrl := rfl
@[simp] theorem startConversion_tc : (startConversion s).tc = s.tc := rfl
@[simp] theorem startConversion_sc : (startConversion s).sc = s.sc := rfl
@[simp] theorem startConversion_sh0 : (startConversion s).sh0 = s.sh0 := rfl
@[simp] theorem startConversion_sh1 : (startConversion s).sh1 = s.sh1 := rfl
@[simp] theorem startConversion_sh2 : (startConversion s).sh2 = s.sh2 := rfl
@[simp] theorem startConversion_imgW : (startConversion s).imgW = s.imgW := rfl
@[simp] theorem startConversion_imgH : (startConversion s).imgH = s.imgH := rfl
@[simp] theorem startConversion_nblk : (startConversion s).nblk = 0 := rfl
@[simp] theorem startConversion_bpb : (startConversion s).bpb = 0 := rfl
@[simp] theorem startConversion_ct : (startConversion s).ct = ⟨0, 0, 0, 0⟩ := rfl
@[simp] theorem startConversion_fg : (startConversion s).fg = 0 := rfl
@[simp] theorem startConversion_attrLen : (startConversion s).attrLen = 0 := rfl
@[simp] theorem startConversion_pixLen : (startConversion s).pixLen = 0 := rfl
@[simp] theorem startConversion_seen : (startConversion s).seen = [] := rfl
@[simp] theorem startConversion_tset : (startConversion s).tset = [] := rfl
@[simp] theorem startConversion_ns : (startConversion s).ns = [] := rfl
@[simp] theorem startConversion_pix : (startConversion s).pix = s.pix := rfl
@[simp] theorem startConversion_attrOut : (startConversion s).attrOut = [] := rfl
@[simp] theorem startConversion_pixOut : (startConversion s).pixOut = [] := rfl
@[simp] theorem startConversion_attrStage : (startConversion s).attrStage = [] := rfl
@[simp] theorem startConversion_pixStage : (startConversion s).pixStage = [] := rfl
@[simp] theorem startConversion_pixEpoch : (startConversion s).pixEpoch = s.pixEpoch := rfl
@[simp] theorem startConversion_host : (startConversion s).host = s.host := rfl
@[simp] theorem startConversion_busRead : (startConversion s).busRead = s.busRead := rfl

end startConversionFields

section releaseResultsFields

variable (s : State)

@[simp] theorem releaseResults_cfg : (releaseResults s).cfg = s.cfg := rfl
@[simp] theorem releaseResults_life : (releaseResults s).life = .idle := rfl
@[simp] theorem releaseResults_phase : (releaseResults s).phase = .none := rfl
@[simp] theorem releaseResults_blk : (releaseResults s).blk = 0 := rfl
@[simp] theorem releaseResults_err : (releaseResults s).err = none := rfl
@[simp] theorem releaseResults_errIdx : (releaseResults s).errIdx = 0 := rfl
@[simp] theorem releaseResults_ctrl : (releaseResults s).ctrl = s.ctrl := rfl
@[simp] theorem releaseResults_tc : (releaseResults s).tc = s.tc := rfl
@[simp] theorem releaseResults_sc : (releaseResults s).sc = s.sc := rfl
@[simp] theorem releaseResults_sh0 : (releaseResults s).sh0 = s.sh0 := rfl
@[simp] theorem releaseResults_sh1 : (releaseResults s).sh1 = s.sh1 := rfl
@[simp] theorem releaseResults_sh2 : (releaseResults s).sh2 = s.sh2 := rfl
@[simp] theorem releaseResults_imgW : (releaseResults s).imgW = s.imgW := rfl
@[simp] theorem releaseResults_imgH : (releaseResults s).imgH = s.imgH := rfl
@[simp] theorem releaseResults_nblk : (releaseResults s).nblk = 0 := rfl
@[simp] theorem releaseResults_bpb : (releaseResults s).bpb = 0 := rfl
@[simp] theorem releaseResults_ct : (releaseResults s).ct = ⟨0, 0, 0, 0⟩ := rfl
@[simp] theorem releaseResults_fg : (releaseResults s).fg = 0 := rfl
@[simp] theorem releaseResults_attrLen : (releaseResults s).attrLen = 0 := rfl
@[simp] theorem releaseResults_pixLen : (releaseResults s).pixLen = 0 := rfl
@[simp] theorem releaseResults_seen : (releaseResults s).seen = [] := rfl
@[simp] theorem releaseResults_tset : (releaseResults s).tset = [] := rfl
@[simp] theorem releaseResults_ns : (releaseResults s).ns = [] := rfl
@[simp] theorem releaseResults_pix : (releaseResults s).pix = s.pix := rfl
@[simp] theorem releaseResults_attrOut : (releaseResults s).attrOut = [] := rfl
@[simp] theorem releaseResults_pixOut : (releaseResults s).pixOut = [] := rfl
@[simp] theorem releaseResults_attrStage : (releaseResults s).attrStage = [] := rfl
@[simp] theorem releaseResults_pixStage : (releaseResults s).pixStage = [] := rfl
@[simp] theorem releaseResults_pixEpoch : (releaseResults s).pixEpoch = s.pixEpoch := rfl
@[simp] theorem releaseResults_host : (releaseResults s).host = s.host := rfl
@[simp] theorem releaseResults_busRead : (releaseResults s).busRead = s.busRead := rfl

end releaseResultsFields

section commitFields

variable (l : List Byte) (s : State)

@[simp] theorem commit_cfg : (commit l s).cfg = s.cfg := rfl
@[simp] theorem commit_life : (commit l s).life = .done := rfl
@[simp] theorem commit_phase : (commit l s).phase = .none := rfl
@[simp] theorem commit_blk : (commit l s).blk = 0 := rfl
@[simp] theorem commit_err : (commit l s).err = s.err := rfl
@[simp] theorem commit_errIdx : (commit l s).errIdx = s.errIdx := rfl
@[simp] theorem commit_ctrl : (commit l s).ctrl = s.ctrl := rfl
@[simp] theorem commit_tc : (commit l s).tc = s.tc := rfl
@[simp] theorem commit_sc : (commit l s).sc = s.sc := rfl
@[simp] theorem commit_sh0 : (commit l s).sh0 = s.sh0 := rfl
@[simp] theorem commit_sh1 : (commit l s).sh1 = s.sh1 := rfl
@[simp] theorem commit_sh2 : (commit l s).sh2 = s.sh2 := rfl
@[simp] theorem commit_imgW : (commit l s).imgW = s.imgW := rfl
@[simp] theorem commit_imgH : (commit l s).imgH = s.imgH := rfl
@[simp] theorem commit_nblk : (commit l s).nblk = s.nblk := rfl
@[simp] theorem commit_bpb : (commit l s).bpb = s.bpb := rfl
@[simp] theorem commit_ct : (commit l s).ct = s.ct := rfl
@[simp] theorem commit_fg : (commit l s).fg = s.fg := rfl
@[simp] theorem commit_attrLen : (commit l s).attrLen = l.length := rfl
@[simp] theorem commit_pixLen : (commit l s).pixLen = s.pixStage.length := rfl
@[simp] theorem commit_seen : (commit l s).seen = s.seen := rfl
@[simp] theorem commit_tset : (commit l s).tset = s.tset := rfl
@[simp] theorem commit_ns : (commit l s).ns = s.ns := rfl
@[simp] theorem commit_pix : (commit l s).pix = s.pix := rfl
@[simp] theorem commit_attrOut : (commit l s).attrOut = l := rfl
@[simp] theorem commit_pixOut : (commit l s).pixOut = s.pixStage := rfl
@[simp] theorem commit_attrStage : (commit l s).attrStage = s.attrStage := rfl
@[simp] theorem commit_pixStage : (commit l s).pixStage = s.pixStage := rfl
@[simp] theorem commit_pixEpoch : (commit l s).pixEpoch = s.pixEpoch := rfl
@[simp] theorem commit_host : (commit l s).host = s.host := rfl
@[simp] theorem commit_busRead : (commit l s).busRead = s.busRead := rfl

end commitFields

section pixWriteFields

variable (s : State) (x y : Nat) (v : Idx)

@[simp] theorem pixWrite_cfg : (pixWrite s x y v).cfg = s.cfg := by unfold pixWrite; split <;> rfl
@[simp] theorem pixWrite_life : (pixWrite s x y v).life = s.life := by unfold pixWrite; split <;> rfl
@[simp] theorem pixWrite_phase : (pixWrite s x y v).phase = s.phase := by unfold pixWrite; split <;> rfl
@[simp] theorem pixWrite_blk : (pixWrite s x y v).blk = s.blk := by unfold pixWrite; split <;> rfl
@[simp] theorem pixWrite_err : (pixWrite s x y v).err = s.err := by unfold pixWrite; split <;> rfl
@[simp] theorem pixWrite_errIdx : (pixWrite s x y v).errIdx = s.errIdx := by unfold pixWrite; split <;> rfl
@[simp] theorem pixWrite_ctrl : (pixWrite s x y v).ctrl = s.ctrl := by unfold pixWrite; split <;> rfl
@[simp] theorem pixWrite_tc : (pixWrite s x y v).tc = s.tc := by unfold pixWrite; split <;> rfl
@[simp] theorem pixWrite_sc : (pixWrite s x y v).sc = s.sc := by unfold pixWrite; split <;> rfl
@[simp] theorem pixWrite_sh0 : (pixWrite s x y v).sh0 = s.sh0 := by unfold pixWrite; split <;> rfl
@[simp] theorem pixWrite_sh1 : (pixWrite s x y v).sh1 = s.sh1 := by unfold pixWrite; split <;> rfl
@[simp] theorem pixWrite_sh2 : (pixWrite s x y v).sh2 = s.sh2 := by unfold pixWrite; split <;> rfl
@[simp] theorem pixWrite_imgW : (pixWrite s x y v).imgW = s.imgW := by unfold pixWrite; split <;> rfl
@[simp] theorem pixWrite_imgH : (pixWrite s x y v).imgH = s.imgH := by unfold pixWrite; split <;> rfl
@[simp] theorem pixWrite_nblk : (pixWrite s x y v).nblk = s.nblk := by unfold pixWrite; split <;> rfl
@[simp] theorem pixWrite_bpb : (pixWrite s x y v).bpb = s.bpb := by unfold pixWrite; split <;> rfl
@[simp] theorem pixWrite_ct : (pixWrite s x y v).ct = s.ct := by unfold pixWrite; split <;> rfl
@[simp] theorem pixWrite_fg : (pixWrite s x y v).fg = s.fg := by unfold pixWrite; split <;> rfl
@[simp] theorem pixWrite_attrLen : (pixWrite s x y v).attrLen = s.attrLen := by unfold pixWrite; split <;> rfl
@[simp] theorem pixWrite_pixLen : (pixWrite s x y v).pixLen = s.pixLen := by unfold pixWrite; split <;> rfl
@[simp] theorem pixWrite_seen : (pixWrite s x y v).seen = s.seen := by unfold pixWrite; split <;> rfl
@[simp] theorem pixWrite_tset : (pixWrite s x y v).tset = s.tset := by unfold pixWrite; split <;> rfl
@[simp] theorem pixWrite_ns : (pixWrite s x y v).ns = s.ns := by unfold pixWrite; split <;> rfl
@[simp] theorem pixWrite_attrOut : (pixWrite s x y v).attrOut = s.attrOut := by unfold pixWrite; split <;> rfl
@[simp] theorem pixWrite_pixOut : (pixWrite s x y v).pixOut = s.pixOut := by unfold pixWrite; split <;> rfl
@[simp] theorem pixWrite_attrStage : (pixWrite s x y v).attrStage = s.attrStage := by unfold pixWrite; split <;> rfl
@[simp] theorem pixWrite_pixStage : (pixWrite s x y v).pixStage = s.pixStage := by unfold pixWrite; split <;> rfl
@[simp] theorem pixWrite_pixEpoch : (pixWrite s x y v).pixEpoch = s.pixEpoch := by unfold pixWrite; split <;> rfl
@[simp] theorem pixWrite_host : (pixWrite s x y v).host = s.host := by unfold pixWrite; split <;> rfl
@[simp] theorem pixWrite_busRead : (pixWrite s x y v).busRead = s.busRead := by unfold pixWrite; split <;> rfl

end pixWriteFields

section views

variable {s t : State}

theorem mode_congr (h : t.ctrl = s.ctrl) : t.mode = s.mode := by simp only [State.mode, h]

theorem attrEn_congr (h : t.ctrl = s.ctrl) : t.attrEn = s.attrEn := by simp only [State.attrEn, h]

theorem tcOperand_congr (h : t.ctrl = s.ctrl) (h' : t.tc = s.tc) : tcOperand t = tcOperand s := by
  unfold tcOperand State.tcEn; rw [h, h']

theorem scOperand_congr (h : t.ctrl = s.ctrl) (h' : t.sc = s.sc) : scOperand t = scOperand s := by
  unfold scOperand State.scEn; rw [h, h']

theorem pixRead_congr (h : t.pix = s.pix) (h' : t.pixEpoch = s.pixEpoch) : pixRead t = pixRead s := by
  funext x y; simp only [pixRead, h, h']

end views

end Sys2Proof.Machine
end

