-- ==== Sys2Proof/Laws/Grid.lean ====
section
/-! SUPPORT. Blocks as grids: which cells a block's pixel list holds, where a group stands in packing order, and what
PACK's pure function answers, said once. -/

namespace Sys2Proof.Machine

/-- Rows of equal length laid end to end: the length. -/
theorem rows_length {α : Type} (h n : Nat) (f : Nat → Nat → α) :
    ((List.range h).flatMap fun r => (List.range n).map (f r)).length = h * n := by
  induction h with
  | zero => simp
  | succ h ih => simp [List.range_succ, List.flatMap_append, ih, Nat.succ_mul]

/-- Rows of equal length laid end to end: element `r * n + g` is element `g` of row `r`. -/
theorem rows_getElem? {α : Type} {h n r g : Nat} (f : Nat → Nat → α) (hr : r < h) (hg : g < n) :
    ((List.range h).flatMap fun r => (List.range n).map (f r))[r * n + g]? = some (f r g) := by
  induction h with
  | zero => omega
  | succ h ih =>
    have hl := rows_length h n f
    rw [List.range_succ, List.flatMap_append]
    by_cases e : r < h
    · have : r * n + g < h * n := by
        have : (r + 1) * n ≤ h * n := Nat.mul_le_mul_right n e
        rw [Nat.succ_mul] at this
        omega
      rw [List.getElem?_append_left (by omega)]
      exact ih e
    · obtain rfl : r = h := by omega
      rw [List.getElem?_append_right (by omega), hl]
      simp [hg]

/-- The pixels of a block are the cells of its rectangle. -/
theorem mem_blockPixels {read : Nat → Nat → Idx} {b : Block} {p : Idx} :
    p ∈ blockPixels read b ↔ ∃ x y, b.x0 ≤ x ∧ x < b.x0 + b.w ∧ b.y0 ≤ y ∧ y < b.y0 + b.h ∧ read x y = p := by
  simp only [blockPixels, List.mem_flatMap, List.mem_map, List.mem_range]
  constructor
  · rintro ⟨r, hr, i, hi, rfl⟩
    exact ⟨b.x0 + i, b.y0 + r, by omega, by omega, by omega, by omega, rfl⟩
  · rintro ⟨x, y, h1, h2, h3, h4, rfl⟩
    refine ⟨y - b.y0, by omega, x - b.x0, by omega, ?_⟩
    congr 1 <;> omega

/-- A collection succeeds exactly with the bytes of its groups. -/
theorem collectBytes_eq_some {f : Nat × Nat → Option Byte} {gs : List (Nat × Nat)} {vs : List Byte} :
    collectBytes f gs = some vs ↔ gs.map f = vs.map some := by
  induction gs generalizing vs with
  | nil => cases vs <;> simp [collectBytes]
  | cons g l ih =>
    unfold collectBytes
    cases hf : f g with
    | none => cases vs <;> simp [hf]
    | some v =>
      cases hl : collectBytes f l with
      | none =>
        simp only [reduceCtorEq, false_iff]
        intro h
        cases vs with
        | nil => simp at h
        | cons w ws =>
          simp only [List.map_cons, List.cons.injEq] at h
          rw [ih.2 h.2] at hl
          cases hl
      | some us =>
        have hu := ih.1 hl
        cases vs with
        | nil => simp
        | cons w ws =>
          simp only [Option.some.injEq, List.cons.injEq, List.map_cons, hf, hu]
          constructor
          · rintro ⟨rfl, rfl⟩; exact ⟨rfl, rfl⟩
          · rintro ⟨h1, h2⟩; exact ⟨h1, List.map_injective_iff.2 (fun _ _ e => Option.some.inj e) h2⟩

/-- A collection fails exactly when some group does. -/
theorem collectBytes_eq_none {f : Nat × Nat → Option Byte} {gs : List (Nat × Nat)} :
    collectBytes f gs = none ↔ ∃ g ∈ gs, f g = none := by
  induction gs with
  | nil => simp [collectBytes]
  | cons g l ih =>
    unfold collectBytes
    cases hf : f g with
    | none => simp [hf]
    | some v =>
      cases hl : collectBytes f l with
      | none => simpa [hf, hl] using ih
      | some us =>
        simp only [reduceCtorEq, List.mem_cons, exists_eq_or_imp, hf, false_or, false_iff]
        rw [← ih]
        simp [hl]

theorem blockGroups_length (b : Block) : (blockGroups b).length = b.h * (b.w / 4) :=
  rows_length b.h (b.w / 4) fun r g => (r, g)

/-- Every byte of a PackedBlock is the byte of its group (R76, R171). -/
theorem packBlock_getElem? {read : Nat → Nat → Idx} {t : ColorTable} {b : Block} {vs : List Byte} {r g : Nat}
    (h : packBlock read t b = some vs) (hr : r < b.h) (hg : g < b.w / 4) :
    ∃ v, vs[r * (b.w / 4) + g]? = some v ∧ packAt read t b r g = some v := by
  have hm := congrArg (fun l => l[r * (b.w / 4) + g]?) (collectBytes_eq_some.1 h)
  have hg' : (blockGroups b)[r * (b.w / 4) + g]? = some (r, g) := rows_getElem? (fun r g => (r, g)) hr hg
  simp only [List.getElem?_map, hg', Option.map_some] at hm
  cases hv : vs[r * (b.w / 4) + g]? with
  | none => simp [hv] at hm
  | some v => exact ⟨v, rfl, by simpa [hv] using hm⟩

/-- The length of a PackedBlock (R175). -/
theorem packBlock_length {read : Nat → Nat → Idx} {t : ColorTable} {b : Block} {vs : List Byte}
    (h : packBlock read t b = some vs) : vs.length = b.h * (b.w / 4) := by
  have := congrArg List.length (collectBytes_eq_some.1 h)
  simp only [List.length_map, blockGroups_length] at this
  exact this.symm

theorem pixelCode_eq_some {t : ColorTable} {p : Idx} (h : p ∈ t.toList) :
    pixelCode t p = some (BitVec.ofNat 8 (indexOf t.toList p)) := by
  have hl : indexOf t.toList p < 4 := indexOf_lt h
  unfold pixelCode
  rw [if_pos (contains_iff.2 h)]
  congr 1
  generalize indexOf t.toList p = n at hl
  interval_cases n <;> rfl

theorem pixelCode_eq_none {t : ColorTable} {p : Idx} : pixelCode t p = none ↔ p ∉ t.toList := by
  unfold pixelCode
  split
  · next h => simpa using h
  · next h => simpa using h

/-- The 2-bit lane `i` of a packed byte (R91): lane 0 is bits 7:6. -/
theorem packGroup_eq_none {t : ColorTable} {p0 p1 p2 p3 : Idx} :
    packGroup t p0 p1 p2 p3 = none ↔ p0 ∉ t.toList ∨ p1 ∉ t.toList ∨ p2 ∉ t.toList ∨ p3 ∉ t.toList := by
  unfold packGroup
  simp only [← pixelCode_eq_none]
  cases pixelCode t p0 <;> cases pixelCode t p1 <;> cases pixelCode t p2 <;> cases pixelCode t p3 <;> simp

/-- A packed byte as the sum of its lanes (R172). -/
theorem packGroup_eq_some {t : ColorTable} {p0 p1 p2 p3 : Idx} (h0 : p0 ∈ t.toList) (h1 : p1 ∈ t.toList)
    (h2 : p2 ∈ t.toList) (h3 : p3 ∈ t.toList) :
    packGroup t p0 p1 p2 p3 = some (BitVec.ofNat 8 (64 * indexOf t.toList p0 + 16 * indexOf t.toList p1
      + 4 * indexOf t.toList p2 + indexOf t.toList p3)) := by
  unfold packGroup
  rw [pixelCode_eq_some h0, pixelCode_eq_some h1, pixelCode_eq_some h2, pixelCode_eq_some h3]
  have l0 : indexOf t.toList p0 < 4 := indexOf_lt h0
  have l1 : indexOf t.toList p1 < 4 := indexOf_lt h1
  have l2 : indexOf t.toList p2 < 4 := indexOf_lt h2
  have l3 : indexOf t.toList p3 < 4 := indexOf_lt h3
  generalize indexOf t.toList p0 = a at l0
  generalize indexOf t.toList p1 = b at l1
  generalize indexOf t.toList p2 = c at l2
  generalize indexOf t.toList p3 = d at l3
  revert a b c d
  decide

/-- The lanes of a sum of four codes (R91). -/
theorem laneOf_sum : ∀ a < 4, ∀ b < 4, ∀ c < 4, ∀ d < 4,
    (laneOf (BitVec.ofNat 8 (64 * a + 16 * b + 4 * c + d)) 0).toNat = a ∧
    (laneOf (BitVec.ofNat 8 (64 * a + 16 * b + 4 * c + d)) 1).toNat = b ∧
    (laneOf (BitVec.ofNat 8 (64 * a + 16 * b + 4 * c + d)) 2).toNat = c ∧
    (laneOf (BitVec.ofNat 8 (64 * a + 16 * b + 4 * c + d)) 3).toNat = d := by
  decide

/-- Every lane of a packed byte holds the lowest position of its pixel in CT (R92, R173). -/
theorem packAt_lane {read : Nat → Nat → Idx} {t : ColorTable} {b : Block} {r g i : Nat} {v : Byte}
    (h : packAt read t b r g = some v) (hi : i < 4) :
    read (b.x0 + 4 * g + i) (b.y0 + r) ∈ t.toList ∧
      (laneOf v i).toNat = indexOf t.toList (read (b.x0 + 4 * g + i) (b.y0 + r)) := by
  unfold packAt at h
  have hn := (packGroup_eq_none (t := t) (p0 := read (b.x0 + 4 * g) (b.y0 + r))
    (p1 := read (b.x0 + 4 * g + 1) (b.y0 + r)) (p2 := read (b.x0 + 4 * g + 2) (b.y0 + r))
    (p3 := read (b.x0 + 4 * g + 3) (b.y0 + r))).not.1 (by rw [h]; simp)
  simp only [not_or, not_not] at hn
  obtain ⟨h0, h1, h2, h3⟩ := hn
  rw [packGroup_eq_some h0 h1 h2 h3] at h
  obtain rfl := Option.some.inj h
  have hs := laneOf_sum _ (indexOf_lt h0) _ (indexOf_lt h1) _ (indexOf_lt h2) _ (indexOf_lt h3)
  obtain rfl | rfl | rfl | rfl : i = 0 ∨ i = 1 ∨ i = 2 ∨ i = 3 := by omega
  · exact ⟨h0, hs.1⟩
  · exact ⟨h1, hs.2.1⟩
  · exact ⟨h2, hs.2.2.1⟩
  · exact ⟨h3, hs.2.2.2⟩

/-- Decoding a lane through CT gives the pixel back (R178). -/
theorem get_of_lane {t : ColorTable} {c : BitVec 2} {p : Idx} (hp : p ∈ t.toList)
    (h : c.toNat = indexOf t.toList p) : t.get c = p := by
  unfold ColorTable.get
  rw [h]
  exact getD_indexOf hp

/-- PACK fails exactly when a pixel of the block is not in CT (R174). -/
theorem packBlock_eq_none {read : Nat → Nat → Idx} {t : ColorTable} {b : Block} (hw : b.w % 4 = 0) :
    packBlock read t b = none ↔ ∃ p ∈ blockPixels read b, p ∉ t.toList := by
  unfold packBlock
  rw [collectBytes_eq_none]
  simp only [blockGroups, List.mem_flatMap, List.mem_map, List.mem_range, mem_blockPixels]
  constructor
  · rintro ⟨_, ⟨r, hr, g, hg, rfl⟩, hn⟩
    simp only [packAt, packGroup_eq_none] at hn
    rcases hn with hn | hn | hn | hn
    · exact ⟨_, ⟨_, _, by omega, by omega, by omega, by omega, rfl⟩, hn⟩
    · exact ⟨_, ⟨_, _, by omega, by omega, by omega, by omega, rfl⟩, hn⟩
    · exact ⟨_, ⟨_, _, by omega, by omega, by omega, by omega, rfl⟩, hn⟩
    · exact ⟨_, ⟨_, _, by omega, by omega, by omega, by omega, rfl⟩, hn⟩
  · rintro ⟨_, ⟨x, y, h1, h2, h3, h4, rfl⟩, hn⟩
    refine ⟨(y - b.y0, (x - b.x0) / 4), ⟨_, by omega, _, by omega, rfl⟩, ?_⟩
    have ey : b.y0 + (y - b.y0) = y := by omega
    simp only [packAt, packGroup_eq_none, ey]
    have hx : (x - b.x0) % 4 = 0 ∨ (x - b.x0) % 4 = 1 ∨ (x - b.x0) % 4 = 2 ∨ (x - b.x0) % 4 = 3 := by omega
    rcases hx with hx | hx | hx | hx
    · have e : b.x0 + 4 * ((x - b.x0) / 4) = x := by omega
      rw [e]; exact .inl hn
    · have e : b.x0 + 4 * ((x - b.x0) / 4) + 1 = x := by omega
      rw [e]; exact .inr (.inl hn)
    · have e : b.x0 + 4 * ((x - b.x0) / 4) + 2 = x := by omega
      rw [e]; exact .inr (.inr (.inl hn))
    · have e : b.x0 + 4 * ((x - b.x0) / 4) + 3 = x := by omega
      rw [e]; exact .inr (.inr (.inr hn))

end Sys2Proof.Machine
end

