-- ==== Sys2Proof/Laws/Memory.lean ====
section
/-! SUPPORT. The laws of PIX's cell list: a write keeps the canonical form, a read after a write to the same cell gives the
value written, and every other cell reads as before. -/

namespace Sys2Proof.Machine

theorem Memory.above_mono {lo lo' : Nat} {m : List Host.Cell} (h : lo ≤ lo') (hm : Memory.above lo' m = true) :
    Memory.above lo m = true := by
  cases m with
  | nil => rfl
  | cons c l =>
    simp only [Memory.above, Bool.and_eq_true, decide_eq_true_eq] at hm ⊢
    exact ⟨by omega, hm.2⟩

theorem Memory.wf_of_above {lo : Nat} {m : List Host.Cell} (h : Memory.above lo m = true) : Memory.wf m = true := by
  cases m with
  | nil => rfl
  | cons c l =>
    simp only [Memory.above, Bool.and_eq_true] at h
    exact h.2

theorem Memory.above_write {lo a : Nat} {m : List Host.Cell} {v : Byte} (ha : lo < a)
    (hm : Memory.above lo m = true) : Memory.above lo (Memory.write m a v) = true := by
  induction m generalizing lo with
  | nil => simp [Memory.write, Memory.above, ha]
  | cons c l ih =>
    simp only [Memory.above, Bool.and_eq_true, decide_eq_true_eq] at hm
    unfold Memory.write
    split
    · simp_all [Memory.above]
    · split
      · next h => subst h; simp_all [Memory.above]
      · next h1 h2 =>
        simp only [Memory.above, Bool.and_eq_true, decide_eq_true_eq]
        exact ⟨hm.1, ih (by omega) hm.2⟩

/-- A write keeps the canonical form. -/
theorem Memory.wf_write {a : Nat} {m : List Host.Cell} {v : Byte} (hm : Memory.wf m = true) :
    Memory.wf (Memory.write m a v) = true := by
  cases m with
  | nil => rfl
  | cons c l =>
    unfold Memory.write
    split
    · simp_all [Memory.wf, Memory.above]
    · split
      · next h => subst h; exact hm
      · exact Memory.above_write (by omega) hm

@[simp] theorem Memory.read_write_same (m : List Host.Cell) (a : Nat) (v : Byte) :
    Memory.read (Memory.write m a v) a = some v := by
  induction m with
  | nil => simp [Memory.write, Memory.read]
  | cons c l ih =>
    unfold Memory.write
    split
    · simp [Memory.read]
    · split
      · simp [Memory.read]
      · next h1 h2 => simp [Memory.read, Ne.symm h2, ih]

theorem Memory.read_write_other {m : List Host.Cell} {a b : Nat} {v : Byte} (h : b ≠ a) :
    Memory.read (Memory.write m a v) b = Memory.read m b := by
  induction m with
  | nil => simp [Memory.write, Memory.read, Ne.symm h]
  | cons c l ih =>
    unfold Memory.write
    split
    · simp [Memory.read, Ne.symm h]
    · split
      · next h2 => subst h2; simp [Memory.read, Ne.symm h]
      · simp [Memory.read, ih]

theorem pixKey_inj {x y x' y' : Nat} : pixKey x y = pixKey x' y' ↔ x = x' ∧ y = y' := Nat.pair_eq_pair

/-- A PIX write keeps the canonical form. -/
theorem pixWrite_wf {s : State} {x y : Nat} {v : Idx} (h : Memory.wf s.pix = true) :
    Memory.wf (pixWrite s x y v).pix = true := by
  unfold pixWrite
  split
  · exact Memory.wf_write h
  · exact h

/-- Every other cell reads as before a PIX write. -/
theorem pixRead_pixWrite_other {s : State} {x y x' y' : Nat} {v : Idx} (h : ¬ (x' = x ∧ y' = y)) :
    pixRead (pixWrite s x y v) x' y' = pixRead s x' y' := by
  unfold pixWrite
  split
  · simp only [pixRead]
    rw [Memory.read_write_other (fun e => h (pixKey_inj.1 e))]
  · rfl

end Sys2Proof.Machine
end

