-- ==== Sys2Proof/Laws/Exec.lean ====
section
/-! SUPPORT. What each meaning can do, said once: its outcome is a failure that leaves what R240 says, or the update of its
rule. Later proofs cite these and do not unfold the meanings. -/

namespace Sys2Proof.Machine

theorem SameInputs.refl (s : State) : SameInputs s s :=
  ⟨rfl, rfl, rfl, rfl, rfl, rfl, rfl, rfl, rfl, rfl, rfl, rfl, rfl⟩

theorem SameInputs.trans {s t u : State} (h : SameInputs s t) (k : SameInputs t u) : SameInputs s u :=
  ⟨k.cfg.trans h.cfg, k.ctrl.trans h.ctrl, k.tc.trans h.tc, k.sc.trans h.sc, k.sh0.trans h.sh0, k.sh1.trans h.sh1,
    k.sh2.trans h.sh2, k.imgW.trans h.imgW, k.imgH.trans h.imgH, k.pix.trans h.pix, k.pixEpoch.trans h.pixEpoch,
    k.host.trans h.host, k.busRead.trans h.busRead⟩

theorem SameInputs.mode {s t : State} (h : SameInputs s t) : t.mode = s.mode := mode_congr h.ctrl

theorem SameInputs.pixRead {s t : State} (h : SameInputs s t) : pixRead t = pixRead s :=
  pixRead_congr h.pix h.pixEpoch

theorem SameInputs.convConfig {s t : State} (h : SameInputs s t) : t.convConfig = s.convConfig := by
  unfold State.convConfig
  rw [h.mode, attrEn_congr h.ctrl, tcOperand_congr h.ctrl h.tc, scOperand_congr h.ctrl h.sc, h.sh0, h.sh1, h.sh2,
    h.imgW, h.imgH]

theorem setPos_sameInputs (s : State) (p : Phase) (k : Nat) : SameInputs s (setPos s p k) :=
  ⟨rfl, rfl, rfl, rfl, rfl, rfl, rfl, rfl, rfl, rfl, rfl, rfl, rfl⟩

theorem appendPix_sameInputs (s : State) (vs : List Byte) : SameInputs s (appendPix s vs) :=
  ⟨rfl, rfl, rfl, rfl, rfl, rfl, rfl, rfl, rfl, rfl, rfl, rfl, rfl⟩

theorem appendAttr_sameInputs (s : State) (v : Byte) : SameInputs s (appendAttr s v) :=
  ⟨rfl, rfl, rfl, rfl, rfl, rfl, rfl, rfl, rfl, rfl, rfl, rfl, rfl⟩

theorem clearResults_cleared (s : State) : Cleared (clearResults s) :=
  ⟨rfl, rfl, rfl, rfl, rfl, rfl, rfl, rfl, rfl, rfl, rfl, rfl, rfl⟩

/-- Entering a failure does what R240 says, and nothing else. -/
theorem raise_failedFrom (k : FailKind) (i : Nat) (s : State) : FailedFrom s (raise k i s) k i :=
  ⟨rfl, rfl, rfl, rfl, rfl, ⟨rfl, rfl, rfl, rfl, rfl, rfl, rfl, rfl, rfl, rfl, rfl, rfl, rfl⟩,
    ⟨rfl, rfl, rfl, rfl, rfl, rfl, rfl, rfl, rfl, rfl, rfl, rfl, rfl⟩⟩

/-- A splitter's result: a failure with index 0, or NBLK, BPB and the next position. -/
theorem storeSplit_cases (r : Except FailKind (Nat × Nat)) (s : State) :
    (∃ k, r = .error k ∧ storeSplit r s = raise k 0 s) ∨
    (∃ n b, r = .ok (n, b) ∧ storeSplit r s = { s with nblk := n, bpb := b, phase := .resolve, blk := 0 }) := by
  cases r with
  | error k => exact .inl ⟨k, rfl, rfl⟩
  | ok nb => exact .inr ⟨nb.1, nb.2, rfl, rfl⟩

/-- SPLIT.S's kinds. -/
theorem splitSprite_cases (w h : Nat) :
    ((w % 12 ≠ 0 ∨ h % 21 ≠ 0) ∧ splitSprite w h = .error .sizeMismatch) ∨
    (w % 12 = 0 ∧ h % 21 = 0 ∧ splitSprite w h = .ok (w / 12, 3 * h)) := by
  unfold splitSprite
  split
  · next c => exact .inl ⟨c, rfl⟩
  · next c => exact .inr ⟨by omega, by omega, rfl⟩

/-- SPLIT.T's kinds. -/
theorem splitTileset_cases (w h : Nat) :
    ((w % 4 ≠ 0 ∨ h % 8 ≠ 0) ∧ splitTileset w h = .error .sizeMismatch) ∨
    (w % 4 = 0 ∧ h % 8 = 0 ∧ 256 < w / 4 * (h / 8) ∧ splitTileset w h = .error .tooManyTiles) ∨
    (w % 4 = 0 ∧ h % 8 = 0 ∧ w / 4 * (h / 8) ≤ 256 ∧ splitTileset w h = .ok (w / 4 * (h / 8), 8)) := by
  unfold splitTileset
  split
  · next c => exact .inl ⟨c, rfl⟩
  · next c =>
    split
    · next d => exact .inr (.inl ⟨by omega, by omega, d, rfl⟩)
    · next d => exact .inr (.inr ⟨by omega, by omega, by omega, rfl⟩)

theorem moveTo_cases (pos : Nat) (c : Option Idx) (t : List Idx) :
    (c = none ∧ moveTo pos c t = .ok t) ∨
    (∃ v, c = some v ∧ v ∈ t ∧ moveTo pos c t = .ok (insertAt (t.erase v) pos v)) ∨
    (∃ v, c = some v ∧ v ∉ t ∧ moveTo pos c t = .error .colorNotFound) := by
  cases c with
  | none => exact .inl ⟨rfl, rfl⟩
  | some v =>
    unfold moveTo
    simp only
    split
    · next h => exact .inr (.inl ⟨v, rfl, contains_iff.1 h, by rw [removeFirst_eq_erase]⟩)
    · next h => exact .inr (.inr ⟨v, rfl, fun m => h (contains_iff.2 m), rfl⟩)

theorem insertAt_perm (s : List Idx) (i : Nat) (v : Idx) : (insertAt s i v).Perm (v :: s) := by
  unfold insertAt
  have h : (List.take i s ++ [v] ++ List.drop i s).Perm (v :: (List.take i s ++ List.drop i s)) := by
    rw [List.append_assoc]
    exact List.perm_middle
  rwa [List.take_append_drop] at h

/-- Moving an entry permutes the table. -/
theorem moveTo_perm {pos : Nat} {c : Option Idx} {t u : List Idx} (h : moveTo pos c t = .ok u) : u.Perm t := by
  rcases moveTo_cases pos c t with ⟨_, e⟩ | ⟨v, _, hv, e⟩ | ⟨v, _, _, e⟩
  · rw [e] at h; cases h; exact List.Perm.refl _
  · rw [e] at h; cases h
    exact (insertAt_perm _ _ _).trans (List.perm_cons_erase hv).symm
  · rw [e] at h; cases h

theorem padSeen_length {l : List Idx} (h : l.length ≤ 4) : (padSeen l).length = 4 := by
  simp [padSeen]; omega

/-- A resolved sprite table is a permutation of the padded colours (R151 (a)). -/
theorem resolveSprite_perm {l : List Idx} {tc sc : Option Idx} {t : List Idx} (h : resolveSprite l tc sc = .ok t) :
    l.length ≤ 4 ∧ t.Perm (padSeen l) := by
  unfold resolveSprite at h
  split at h
  · cases h
  · next hl =>
    split at h
    · cases h
    · split at h
      · cases h
      · next u hu =>
        exact ⟨by omega, (moveTo_perm h).trans ((moveTo_perm hu).trans (sortAsc_perm _))⟩

theorem toList_ofList {t : List Idx} (h : t.length = 4) : (ColorTable.ofList t).toList = t := by
  match t, h with
  | [a, b, c, d], _ => rfl

/-- Only RESOLVE.S's two kinds. -/
theorem resolveSprite_error {l : List Idx} {tc sc : Option Idx} {k : FailKind} (h : resolveSprite l tc sc = .error k) :
    k = .tooManyColors ∨ k = .colorNotFound := by
  unfold resolveSprite at h
  split at h
  · cases h; exact .inl rfl
  · split at h
    · cases h; exact .inr rfl
    · split at h
      · next e he =>
        rcases moveTo_cases 0 tc (sortAsc (padSeen l)) with ⟨_, e'⟩ | ⟨v, _, hv, e'⟩ | ⟨v, _, _, e'⟩ <;>
          rw [e'] at he <;> cases he
        cases h; exact .inr rfl
      · next u hu =>
        rcases moveTo_cases 2 sc u with ⟨_, e'⟩ | ⟨v, _, hv, e'⟩ | ⟨v, _, _, e'⟩ <;> rw [e'] at h <;> cases h
        exact .inr rfl

/-- RESOLVE.T's outcomes by the candidates. -/
theorem resolveTile_cases (ns : List Idx) :
    (1 < ns.length ∧ resolveTile ns = .error .ambiguousForeground) ∨
    (ns.length ≤ 1 ∧ 7 < (ns.headD 0).toNat ∧ resolveTile ns = .error .foregroundOutOfRange) ∨
    (ns.length ≤ 1 ∧ (ns.headD 0).toNat ≤ 7 ∧ resolveTile ns = .ok (ns.headD 0)) := by
  unfold resolveTile
  split
  · next h => exact .inl ⟨h, rfl⟩
  · next h =>
    split
    · next g => exact .inr (.inl ⟨by omega, g, rfl⟩)
    · next g => exact .inr (.inr ⟨by omega, by omega, rfl⟩)

theorem resolveTile_ok {ns : List Idx} {fg : Idx} (h : resolveTile ns = .ok fg) :
    ns.length ≤ 1 ∧ fg = ns.headD 0 ∧ fg.toNat ≤ 7 := by
  rcases resolveTile_cases ns with ⟨_, e⟩ | ⟨_, _, e⟩ | ⟨h1, h2, e⟩ <;> rw [e] at h <;> cases h
  exact ⟨h1, rfl, h2⟩

theorem mem_nonShared {a b c p : Idx} {l : List Idx} : p ∈ nonShared a b c l ↔ p ∈ l ∧ p ≠ a ∧ p ≠ b ∧ p ≠ c := by
  simp [nonShared, and_assoc]

/-- A resolved tile's table holds every colour of the tile (R159 (a)). -/
theorem resolveTile_covers {sh0 sh1 sh2 fg p : Idx} {l : List Idx} (h : resolveTile (nonShared sh0 sh1 sh2 l) = .ok fg)
    (hp : p ∈ l) : p ∈ (ColorTable.mk sh0 sh1 sh2 fg).toList := by
  rcases resolveTile_cases (nonShared sh0 sh1 sh2 l) with ⟨_, e⟩ | ⟨_, _, e⟩ | ⟨hl, _, e⟩
  · rw [e] at h; cases h
  · rw [e] at h; cases h
  · rw [e] at h; cases h
    by_cases hm : p ∈ nonShared sh0 sh1 sh2 l
    · generalize nonShared sh0 sh1 sh2 l = ns at hl hm
      cases ns with
      | nil => simp at hm
      | cons q r =>
        have hr : r = [] := List.length_eq_zero_iff.1 (by simpa using hl)
        subst hr
        obtain rfl := List.mem_singleton.1 hm
        simp [ColorTable.toList]
    · simp only [mem_nonShared, hp, true_and, not_and_or, not_not] at hm
      rcases hm with rfl | rfl | rfl <;> simp [ColorTable.toList]

/-- RESOLVE.S: a failure with index 0, or SEEN, CT and the next position. -/
theorem execResolveS_cases (s : State) :
    (∃ k, resolveSprite (imageColours s) (tcOperand s) (scOperand s) = .error k ∧
      execResolveS s = .next (raise k 0 s)) ∨
    (∃ t, resolveSprite (imageColours s) (tcOperand s) (scOperand s) = .ok t ∧
      execResolveS s = .next { s with
        seen := padSeen (imageColours s), ct := ColorTable.ofList t, phase := .pack, blk := 0 }) := by
  unfold execResolveS
  split
  · next k hk => exact .inl ⟨k, hk, rfl⟩
  · next t ht => exact .inr ⟨t, ht, rfl⟩

/-- RESOLVE.T: a failure with index BLK, or the working sets, CT, FG and the next position. The tile's colours are named
and not unfolded. -/
theorem execResolveT_cases (s : State) :
    ∃ tset ns, tset.Nodup ∧ (∀ p, p ∈ tset ↔ p ∈ blockPixels (pixRead s) (blockT s.imgW s.blk)) ∧
      ns = nonShared s.sh0 s.sh1 s.sh2 tset ∧
      ((∃ k, resolveTile ns = .error k ∧ execResolveT s = .next (raise k s.blk s)) ∨
       (∃ fg, resolveTile ns = .ok fg ∧ execResolveT s = .next { s with
          tset := tset, ns := ns, ct := ⟨s.sh0, s.sh1, s.sh2, fg⟩, fg := fg, phase := .pack, blk := s.blk })) := by
  refine ⟨tileColours s s.blk, _, distinct_nodup _, fun p => mem_distinct, rfl, ?_⟩
  unfold execResolveT
  generalize nonShared s.sh0 s.sh1 s.sh2 (tileColours s s.blk) = ns
  generalize tileColours s s.blk = tset
  cases h : resolveTile ns with
  | error k => exact .inl ⟨k, rfl, rfl⟩
  | ok fg => exact .inr ⟨fg, rfl, rfl⟩

/-- PACK: ColorNotInTable with index BLK, or the staged bytes and the next position. -/
theorem execPack_cases (m : Mode) (s : State) :
    (packBlock (pixRead s) s.ct (blockOf m s.imgW s.imgH s.blk) = none ∧
      execPack m s = .next (raise .colorNotInTable s.blk s)) ∨
    (∃ bytes, packBlock (pixRead s) s.ct (blockOf m s.imgW s.imgH s.blk) = some bytes ∧
      execPack m s = .next (afterPack m (appendPix s bytes))) := by
  unfold execPack
  split
  · next h => exact .inl ⟨h, rfl⟩
  · next bytes h => exact .inr ⟨bytes, h, rfl⟩

theorem afterPack_cases (m : Mode) (s : State) :
    (m = .sprite ∧ s.blk + 1 < s.nblk ∧ afterPack m s = setPos s .pack (s.blk + 1)) ∨
    (m = .sprite ∧ s.nblk ≤ s.blk + 1 ∧ afterPack m s = setPos s .emit 0) ∨
    (m = .tileset ∧ afterPack m s = setPos s .attr s.blk) := by
  cases m with
  | tileset => exact .inr (.inr ⟨rfl, rfl⟩)
  | sprite =>
    by_cases h : s.blk + 1 < s.nblk
    · exact .inl ⟨rfl, h, if_pos h⟩
    · exact .inr (.inl ⟨rfl, by omega, if_neg h⟩)

theorem afterAttr_cases (s : State) :
    (s.blk + 1 < s.nblk ∧ afterAttr s = setPos s .resolve (s.blk + 1)) ∨
    (s.nblk ≤ s.blk + 1 ∧ afterAttr s = setPos s .emit 0) := by
  unfold afterAttr
  split
  · next h => exact .inl ⟨h, rfl⟩
  · next h => exact .inr ⟨by omega, rfl⟩

theorem afterPack_sameInputs (m : Mode) (s : State) : SameInputs s (afterPack m s) := by
  rcases afterPack_cases m s with ⟨_, _, e⟩ | ⟨_, _, e⟩ | ⟨_, e⟩ <;> rw [e] <;> exact setPos_sameInputs _ _ _

theorem afterAttr_sameInputs (s : State) : SameInputs s (afterAttr s) := by
  rcases afterAttr_cases s with ⟨_, e⟩ | ⟨_, e⟩ <;> rw [e] <;> exact setPos_sameInputs _ _ _

/-- No operation and no command changes what the host supplies (R47, R205, R208, R240). -/
theorem exec_sameInputs {i : Instr} {s t : State} (h : exec i s = .next t) : SameInputs s t := by
  cases i with
  | conv =>
    simp only [exec, execConv] at h
    split at h
    · cases h; exact .refl s
    · split at h
      · cases h
      · cases h; exact ⟨rfl, rfl, rfl, rfl, rfl, rfl, rfl, rfl, rfl, rfl, rfl, rfl, rfl⟩
  | clr =>
    simp only [exec, execClr] at h
    split at h
    · cases h; exact .refl s
    · cases h; exact ⟨rfl, rfl, rfl, rfl, rfl, rfl, rfl, rfl, rfl, rfl, rfl, rfl, rfl⟩
  | splitS =>
    simp only [exec, execSplitS, Host.Outcome.next.injEq] at h
    subst h
    rcases storeSplit_cases (splitSprite s.imgW s.imgH) s with ⟨k, _, e⟩ | ⟨n, b, _, e⟩ <;> rw [e]
    · exact (raise_failedFrom _ _ _).inputs
    · exact ⟨rfl, rfl, rfl, rfl, rfl, rfl, rfl, rfl, rfl, rfl, rfl, rfl, rfl⟩
  | splitT =>
    simp only [exec, execSplitT, Host.Outcome.next.injEq] at h
    subst h
    rcases storeSplit_cases (splitTileset s.imgW s.imgH) s with ⟨k, _, e⟩ | ⟨n, b, _, e⟩ <;> rw [e]
    · exact (raise_failedFrom _ _ _).inputs
    · exact ⟨rfl, rfl, rfl, rfl, rfl, rfl, rfl, rfl, rfl, rfl, rfl, rfl, rfl⟩
  | resolveS =>
    simp only [exec] at h
    rcases execResolveS_cases s with ⟨k, _, e⟩ | ⟨u, _, e⟩ <;> rw [e] at h <;> cases h
    · exact (raise_failedFrom _ _ _).inputs
    · exact ⟨rfl, rfl, rfl, rfl, rfl, rfl, rfl, rfl, rfl, rfl, rfl, rfl, rfl⟩
  | resolveT =>
    simp only [exec] at h
    obtain ⟨ts, ns, _, _, _, ⟨k, _, e⟩ | ⟨u, _, e⟩⟩ := execResolveT_cases s <;> rw [e] at h <;> cases h
    · exact (raise_failedFrom _ _ _).inputs
    · exact ⟨rfl, rfl, rfl, rfl, rfl, rfl, rfl, rfl, rfl, rfl, rfl, rfl, rfl⟩
  | pack m =>
    simp only [exec] at h
    rcases execPack_cases m s with ⟨_, e⟩ | ⟨bytes, _, e⟩ <;> rw [e] at h <;> cases h
    · exact (raise_failedFrom _ _ _).inputs
    · exact (appendPix_sameInputs s bytes).trans (afterPack_sameInputs m _)
  | attr =>
    simp only [exec, execAttr, Host.Outcome.next.injEq] at h
    subst h
    exact (appendAttr_sameInputs s _).trans (afterAttr_sameInputs _)
  | emitS =>
    simp only [exec, execEmitS, Host.Outcome.next.injEq] at h
    subst h
    exact ⟨rfl, rfl, rfl, rfl, rfl, rfl, rfl, rfl, rfl, rfl, rfl, rfl, rfl⟩
  | emitT =>
    simp only [exec, execEmitT, Host.Outcome.next.injEq] at h
    subst h
    exact ⟨rfl, rfl, rfl, rfl, rfl, rfl, rfl, rfl, rfl, rfl, rfl, rfl, rfl⟩

/-- What a step can be: the sequencer's turn (no move left, or the move is to wait), or one move of the outside world. -/
theorem step_cases (s : State) :
    (s.host = [] ∧ step s = sequencerTurn s) ∨
    (∃ q, s.host = .wait :: q ∧ step s = sequencerTurn { s with host := q }) ∨
    (∃ a q, s.host = a :: q ∧ a ≠ .wait ∧ step s = hostTurn a { s with host := q }) := by
  unfold step
  cases h : s.host with
  | nil => exact .inl ⟨rfl, rfl⟩
  | cons a q =>
    by_cases e : a = .wait
    · subst e; exact .inr (.inl ⟨q, rfl, rfl⟩)
    · exact .inr (.inr ⟨a, q, rfl, e, rfl⟩)

/-- The operation at each position of a conversion (R100). -/
theorem decodeSelector_selector (s : State) :
    decodeSelector (selector s) =
      match s.mode, s.phase with
      | _, .none => .error .idlePosition
      | .sprite, .split => .ok .splitS
      | .tileset, .split => .ok .splitT
      | .sprite, .resolve => .ok .resolveS
      | .tileset, .resolve => .ok .resolveT
      | m, .pack => .ok (.pack m)
      | .sprite, .attr => .error .attrInSpriteMode
      | .tileset, .attr => .ok .attr
      | .sprite, .emit => .ok .emitS
      | .tileset, .emit => .ok .emitT := by
  unfold selector
  cases s.mode <;> cases s.phase <;> rfl

end Sys2Proof.Machine
end

