-- ==== Sys2Proof/Laws/PerInstr.lean ====
section
/-! SUPPORT. The family `RoundTrip`: what holds of every instruction as syntax, one lemma per constructor. -/

namespace Sys2Proof.Laws.RoundTrip

/-- The code of a well-formed instruction decodes to it, in its own format: a command byte for the two host commands, a
selector for the others (spec/30_encoding.md R95, R96, R100). -/
def Statement (i : Instr) : Prop :=
  i.wf = true → decode (encode i) = .ok i ∧
    ((∃ c, encode i = .command c) ↔ (i = .conv ∨ i = .clr))

theorem conv : Statement .conv := fun _ => ⟨rfl, by simp [encode]⟩
theorem clr : Statement .clr := fun _ => ⟨rfl, by simp [encode]⟩
theorem splitS : Statement .splitS := fun _ => ⟨rfl, by simp [encode]⟩
theorem splitT : Statement .splitT := fun _ => ⟨rfl, by simp [encode]⟩
theorem resolveS : Statement .resolveS := fun _ => ⟨rfl, by simp [encode]⟩
theorem resolveT : Statement .resolveT := fun _ => ⟨rfl, by simp [encode]⟩
theorem pack (m : Mode) : Statement (.pack m) := fun _ => ⟨by cases m <;> rfl, by simp [encode]⟩
theorem attr : Statement .attr := fun _ => ⟨rfl, by simp [encode]⟩
theorem emitS : Statement .emitS := fun _ => ⟨rfl, by simp [encode]⟩
theorem emitT : Statement .emitT := fun _ => ⟨rfl, by simp [encode]⟩

end Sys2Proof.Laws.RoundTrip
end

