-- ==== Sys2Proof/Laws/Run.lean ====
section
/-! SUPPORT. Runs of several steps (Host/Core.lean `run`), and the step of a block that the host leaves alone. -/

namespace Sys2Proof.Machine

theorem run_zero (s : State) : core.run 0 s = .next s := rfl

/-- A run of `n + 1` steps whose first step answers `t` is the run of `n` steps from `t`. -/
theorem run_succ (n : Nat) {s t : State} (h : step s = .next t) : core.run (n + 1) s = core.run n t := by
  have h' : core.step s = .next t := h
  simp only [Host.Core.run, h']

theorem step_nil {s : State} (h : s.host = []) : step s = sequencerTurn s := by
  simp only [step, h]

/-- With no move of the outside world left, a BUSY block runs the operation its selector decodes to. -/
theorem step_busy {s : State} {i : Instr} (h : s.host = []) (hl : s.life = .busy)
    (hd : decodeSelector (selector s) = .ok i) : step s = exec i s := by
  rw [step_nil h]
  unfold sequencerTurn
  rw [if_pos hl, hd]

end Sys2Proof.Machine
end

