-- ==== Sys2Proof/Laws/Staged.lean ====
section
/-! SUPPORT. What is staged and resolved (Safety.lean `StagedContents`): the start, one block more, and any change of the
state that leaves the inputs and the staged bytes alone. -/

namespace Sys2Proof.Machine

variable {s t : State} {n m : Nat} {bytes : List Byte}

theorem SameInputs.imageColours (h : SameInputs s t) : imageColours t = imageColours s := by
  unfold Machine.imageColours; rw [h.pixRead, h.imgW, h.imgH]

theorem SameInputs.tileForeground (h : SameInputs s t) (k : Nat) : tileForeground t k = tileForeground s k := by
  unfold Machine.tileForeground tileColours; rw [h.pixRead, h.sh0, h.sh1, h.sh2, h.imgW]

theorem framesStaged_zero (h : s.pixStage = []) : FramesStaged s 0 := ⟨[], rfl, h, by simp⟩

theorem tilesStaged_zero (h : s.pixStage = []) (h' : s.attrStage = []) : TilesStaged s 0 0 :=
  ⟨[], rfl, h, h', by simp⟩

theorem FramesStaged.congr (h : FramesStaged s n) (hs : SameInputs s t) (hp : t.pixStage = s.pixStage)
    (hc : t.ct = s.ct) : FramesStaged t n := by
  obtain ⟨b, e1, e2, e3⟩ := h
  refine ⟨b, e1, hp.trans e2, ?_⟩
  rw [hs.pixRead, hc, hs.imgH]; exact e3

theorem TilesStaged.congr (h : TilesStaged s n m) (hs : SameInputs s t) (hp : t.pixStage = s.pixStage)
    (ha : t.attrStage = s.attrStage) : TilesStaged t n m := by
  obtain ⟨b, e1, e2, e3, e4⟩ := h
  refine ⟨b, e1, hp.trans e2, ha.trans e3, fun k x hx => ?_⟩
  rw [hs.tileForeground, hs.pixRead, hs.sh0, hs.sh1, hs.sh2, hs.imgW]; exact e4 k x hx

/-- A frame packed next is the last of the frames staged. -/
theorem FramesStaged.snoc (h : FramesStaged s n)
    (hp : packBlock (pixRead s) s.ct (blockS s.imgH n) = some bytes) : FramesStaged (appendPix s bytes) (n + 1) := by
  obtain ⟨b, rfl, e2, e3⟩ := h
  refine ⟨b ++ [bytes], by simp, by simp [e2], fun k hk => ?_⟩
  rcases Nat.lt_succ_iff_lt_or_eq.mp hk with h | rfl
  · rw [List.getElem?_append_left h]; exact e3 k h
  · rw [List.getElem?_concat_length]; exact hp.symm

/-- A tile packed next under its own table is the last of the tiles staged. -/
theorem TilesStaged.snoc (h : TilesStaged s n n) (hf : tileForeground s n = .ok s.fg)
    (hp : packBlock (pixRead s) ⟨s.sh0, s.sh1, s.sh2, s.fg⟩ (blockT s.imgW n) = some bytes) :
    TilesStaged (appendPix s bytes) (n + 1) n := by
  obtain ⟨b, rfl, e2, e3, e4⟩ := h
  refine ⟨b ++ [(s.fg, bytes)], by simp, by simp [e2], ?_, fun k x hx => ?_⟩
  · rw [List.take_left]; rwa [List.take_length] at e3
  · have hk := (List.getElem?_eq_some_iff.mp hx).1
    simp only [List.length_append, List.length_singleton] at hk
    rcases Nat.lt_succ_iff_lt_or_eq.mp hk with h | rfl
    · rw [List.getElem?_append_left h] at hx; exact e4 k x hx
    · rw [List.getElem?_concat_length] at hx; cases hx; exact ⟨hf, hp⟩

/-- ATTR stages the attribute byte of the tile packed last. -/
theorem TilesStaged.attr (h : TilesStaged s (n + 1) n) (hf : tileForeground s n = .ok s.fg) :
    TilesStaged (appendAttr s (attrByte s.fg)) (n + 1) (n + 1) := by
  obtain ⟨b, e1, e2, e3, e4⟩ := h
  refine ⟨b, e1, e2, ?_, e4⟩
  have hn : n < b.length := by omega
  have hx := (e4 n b[n] (List.getElem?_eq_getElem hn)).1
  rw [hf] at hx
  injection hx with hx
  rw [List.take_add_one, List.map_append, ← e3, List.getElem?_eq_getElem hn]
  simp [hx]

end Sys2Proof.Machine
end

