-- ==== Sys2Proof/Tests/Slice0.lean ====
section
/-! SUPPORT. The model's own tests. Expected values are spec/95_test_vectors.md's (V1 to V9, W1, W2, P1) and the tables of
spec/30_encoding.md and spec/10_state.md, not the model's answers. -/

namespace Sys2Proof.Tests
open Sys2Proof Sys2Proof.Machine

/-! ### Helpers -/

/-- One look at a next state. -/
def look {α : Type} (o : Host.Outcome State Fault Refusal) (f : State → α) : Option α :=
  match o with
  | .next s => some (f s)
  | .fault _ => none
  | .refused _ => none

/-- A refusal, if that is the outcome. -/
def turnedAway (o : Host.Outcome State Fault Refusal) : Option Refusal :=
  match o with
  | .next _ => none
  | .fault _ => none
  | .refused r => some r

/-- PIX rows written from the top left corner on. -/
def paint (rows : List (List Idx)) (s : State) : State :=
  { s with pix :=
      rows.zipIdx.foldl (fun m r => r.1.zipIdx.foldl (fun m p => Memory.write m (pixKey p.2 r.2) p.1) m) s.pix }

/-- A block with dimensions `w` by `h`, at `(p, k)` of a conversion in progress. -/
def busyAt (ctrl : BitVec 4) (w h : Nat) (p : Phase) (k : Nat) : State :=
  { State.reset with ctrl := ctrl, imgW := w, imgH := h, life := .busy, phase := p, blk := k, sh1 := 1, sh2 := 2 }

/-- Tile 0 of program P1. -/
def tileP1 : List (List Idx) :=
  [[0, 1, 2, 5], [5, 2, 1, 0], [0, 0, 0, 0], [1, 1, 1, 1], [2, 2, 2, 2], [5, 5, 5, 5], [0, 5, 0, 5], [1, 2, 1, 2]]

/-- Tile 1 of program P1. -/
def tileP1b : List (List Idx) :=
  [[3, 3, 3, 3], [3, 0, 0, 3], [3, 0, 0, 3], [3, 3, 3, 3], [0, 0, 0, 0], [1, 1, 1, 1], [2, 2, 2, 2], [3, 2, 1, 0]]

/-! ### Decoding: the words of R96 and R100, written out bit by bit -/

theorem test_decode_conv : decode (.command 0b00000001#8) = .ok .conv := by decide
theorem test_decode_clr : decode (.command 0b00000010#8) = .ok .clr := by decide
theorem test_decode_splitS : decode (.selector 0b0001#4) = .ok .splitS := by decide
theorem test_decode_splitT : decode (.selector 0b1001#4) = .ok .splitT := by decide
theorem test_decode_resolveS : decode (.selector 0b0010#4) = .ok .resolveS := by decide
theorem test_decode_resolveT : decode (.selector 0b1010#4) = .ok .resolveT := by decide
theorem test_decode_pack_sprite : decode (.selector 0b0011#4) = .ok (.pack .sprite) := by decide
theorem test_decode_pack_tileset : decode (.selector 0b1011#4) = .ok (.pack .tileset) := by decide
theorem test_decode_attr : decode (.selector 0b1100#4) = .ok .attr := by decide
theorem test_decode_emitS : decode (.selector 0b0101#4) = .ok .emitS := by decide
theorem test_decode_emitT : decode (.selector 0b1101#4) = .ok .emitT := by decide
theorem test_decode_rejects :
    decode (.selector 0b0100#4) = .error .attrInSpriteMode ∧ decode (.selector 0b1000#4) = .error .idlePosition ∧
      decode (.selector 0b0110#4) = .error .unusedPhase ∧ decode (.command 0x00#8) = .error .reservedCommand ∧
      decode (.command 0x03#8) = .error .reservedCommand := by decide

/-- The host's interface: rows of width 4 and 8, in the width they have and in whole bytes. -/
theorem test_decodeTableWord :
    decodeTableWord 8 0x01 = some .conv ∧ decodeTableWord 8 0x02 = some .clr ∧ decodeTableWord 4 0x1 = some .splitS ∧
      decodeTableWord 4 0x2 = some .resolveS ∧ decodeTableWord 8 0xC = some .attr ∧
      decodeTableWord 4 0x4 = none ∧ decodeTableWord 8 0xFF = none := by decide

/-- A placed command and a placed operation are what the next step runs. -/
theorem test_withFetchWord :
    turnedAway (step (State.reset.withFetchWord 8 0x01)) = some .emptyImage ∧
      look (step (State.reset.withFetchWord 4 0xC)) (fun t => t.attrStage) = some [0x08#8] := by decide

/-! ### Well-formedness: an ill-formed term for each check -/

theorem test_wf_refuses_read_only_register : (HostAction.wr 1 0).wf { dimBits := 16 } = false := by decide
theorem test_wf_refuses_absent_register : (HostAction.wr 21 0).wf { dimBits := 16 } = false := by decide
theorem test_wf_refuses_wide_value :
    (HostAction.wr 5 16).wf { dimBits := 16 } = false ∧ (HostAction.wr 5 15).wf { dimBits := 16 } = true := by decide
theorem test_wf_refuses_wide_x : (HostAction.pix (2 ^ 16) 0 0).wf { dimBits := 16 } = false := by decide
theorem test_wf_refuses_high_y : (HostAction.pix 0 (2 ^ 16) 0).wf { dimBits := 16 } = false := by decide
theorem test_wf_refuses_absent_read : (HostAction.rd 21).wf { dimBits := 16 } = false := by decide
theorem test_wf_refuses_attr_index : (HostAction.rdAttr 256).wf { dimBits := 16 } = false := by decide
theorem test_wf_refuses_pix_index : (HostAction.rdPix (2 ^ 32)).wf { dimBits := 16 } = false := by decide

/-! ### Registers (V8, R29, R31, R34, R35) -/

theorem test_ctrl_reserved_bits : readReg (writeReg 4 0xFF State.reset) 4 = 0x0F := by decide
theorem test_tc_truncates : readReg (writeReg 5 0x1F State.reset) 5 = 0x0F := by decide
theorem test_nblk_is_read_only : readReg (writeReg 12 7 State.reset) 12 = 0 := by decide
theorem test_imgW_truncates : readReg (writeReg 10 0x1000C State.reset) 10 = 0xC := by decide
theorem test_busy_ignores_writes : readReg (writeReg 4 0xF (busyAt 1 8 8 .split 0)) 4 = 1 := by decide
theorem test_status_failed_in_resolve :
    readReg { State.reset with life := .failed, phase := .resolve } 1 = 0x0B := by decide

/-! ### PIX -/

theorem test_pix_write_keeps_canonical_form :
    Memory.wf (paint [[1, 2], [3, 4]] State.reset).pix = true ∧
      Memory.wf (pixWrite (paint [[1, 2], [3, 4]] State.reset) 0 1 9).pix = true := by decide
theorem test_pix_overwrite :
    pixRead (pixWrite (paint [[1, 2], [3, 4]] State.reset) 0 1 9) 0 1 = 9 ∧
      pixRead (pixWrite (paint [[1, 2], [3, 4]] State.reset) 0 1 9) 1 0 = 2 := by decide
theorem test_reset_memory_is_canonical : Memory.wf State.reset.pix = true := by decide

/-! ### Commands (V8) -/

theorem test_conv_starts :
    look (exec .conv { State.reset with imgW := 12, imgH := 21, life := .failed, err := some .sizeMismatch, errIdx := 3 })
      (fun t => (readReg t 1, t.err, t.errIdx, t.blk)) = some (0x05, none, 0, 0) := by decide
theorem test_conv_zero_dimension : turnedAway (exec .conv State.reset) = some .emptyImage := by decide
theorem test_clr_releases :
    look (exec .clr { State.reset with life := .done, nblk := 2, pixOut := [0x1B], pixLen := 1, ctrl := 3 })
      (fun t => (readReg t 1, readReg t 12, readReg t 20, t.pixOut, readReg t 4)) = some (0, 0, 0, [], 3) := by decide
theorem test_clr_while_busy : look (exec .clr (busyAt 0 12 21 .pack 0)) (fun t => t.life) = some .busy := by decide

/-! ### SPLIT.S and SPLIT.T (V1, V9) -/

theorem test_splitS_24_42 :
    look (exec .splitS (busyAt 0 24 42 .split 0)) (fun t => (t.nblk, t.bpb, t.phase)) = some (2, 126, .resolve) := by decide
theorem test_splitS_13_21 :
    look (exec .splitS (busyAt 0 13 21 .split 0)) (fun t => (readReg t 1, readReg t 2, readReg t 3, readReg t 12)) =
      some (0x07, 2, 0, 0) := by decide
theorem test_splitT_256_tiles :
    look (exec .splitT (busyAt 1 1024 8 .split 0)) (fun t => (t.nblk, t.bpb)) = some (256, 8) := by decide
theorem test_splitT_failures :
    look (exec .splitT (busyAt 1 1028 8 .split 0)) (fun t => (readReg t 1, readReg t 2)) = some (0x07, 4) ∧
      look (exec .splitT (busyAt 1 1030 8 .split 0)) (fun t => (readReg t 1, readReg t 2)) = some (0x07, 2) := by decide

/-- Block rectangles of V1. -/
theorem test_block_rectangles :
    blockS 21 1 = ⟨12, 0, 12, 21⟩ ∧ blockT 8 2 = ⟨0, 8, 4, 8⟩ ∧ blockT 12 4 = ⟨4, 8, 4, 8⟩ := by decide

/-! ### RESOLVE.S (V2) -/

/-- Rows 4, 7, 8, 13, 17, 30 and 31. -/
theorem test_resolveSprite_tables :
    resolveSprite [3, 7, 9, 12] (some 9) (some 3) = .ok [9, 7, 3, 12] ∧
      resolveSprite [5, 6] (some 6) (some 5) = .ok [6, 0, 5, 0] ∧
      resolveSprite [1, 2] (some 0) none = .ok [0, 0, 1, 2] ∧
      resolveSprite [0, 1, 2, 3] (some 3) (some 0) = .ok [3, 1, 0, 2] ∧
      resolveSprite [2, 15, 200, 1] (some 15) (some 2) = .ok [15, 1, 2, 200] ∧
      resolveSprite [0, 5] (some 5) (some 0) = .ok [5, 0, 0, 0] ∧
      resolveSprite [0, 5] (some 0) (some 5) = .ok [0, 0, 5, 0] := by decide
/-- Rows 10, 11, 12 and 27. -/
theorem test_resolveSprite_failures :
    resolveSprite [1, 2, 3, 4] (some 0) none = .error .colorNotFound ∧
      resolveSprite [0, 1, 2, 3, 4] (some 1) (some 1) = .error .tooManyColors ∧
      resolveSprite [0, 1, 2, 3] (some 1) (some 1) = .error .colorNotFound ∧
      resolveSprite [0, 1, 2, 3] none (some 4) = .error .colorNotFound := by decide
/-- W1's table, from pixels. -/
theorem test_resolveS_step :
    look (exec .resolveS { paint [[3, 1, 2, 0]] (busyAt 0xC 4 1 .resolve 0) with sc := 1 })
      (fun t => (t.ct, t.phase, t.blk)) = some (⟨0, 2, 1, 3⟩, .pack, 0) := by decide +kernel

/-! ### RESOLVE.T (V3) -/

theorem test_resolveT_tile_P1 :
    look (exec .resolveT (paint tileP1 (busyAt 3 4 8 .resolve 0))) (fun t => (t.ct, t.fg, t.ns, t.phase)) =
      some (⟨0, 1, 2, 5⟩, 5, [5], .pack) := by decide +kernel
theorem test_resolveT_out_of_range :
    look (exec .resolveT (paint (List.replicate 8 [8, 8, 8, 8]) (busyAt 1 4 8 .resolve 0)))
      (fun t => (readReg t 1, readReg t 2, readReg t 3)) = some (0x0B, 7, 0) := by decide +kernel
/-- V3's rows on NS alone: the default, the largest legal, ambiguity before range. -/
theorem test_resolveTile :
    resolveTile (nonShared 0 1 2 [0, 1]) = .ok 0 ∧ resolveTile (nonShared 0 1 2 [7]) = .ok 7 ∧
      resolveTile (nonShared 0 1 2 [9, 10]) = .error .ambiguousForeground ∧
      resolveTile (nonShared 9 10 11 [9, 12]) = .error .foregroundOutOfRange := by decide

/-! ### PACK (V4, V5, P1) -/

theorem test_packGroup :
    packGroup ⟨0, 2, 1, 3⟩ 3 1 1 1 = some 0xEA ∧ packGroup ⟨9, 7, 3, 12⟩ 12 3 7 9 = some 0xE4 ∧
      packGroup ⟨5, 0, 0, 0⟩ 5 0 5 0 = some 0x11 ∧ packGroup ⟨0, 1, 2, 5⟩ 0 1 2 3 = none := by decide
theorem test_pack_tile_P1 :
    look (exec (.pack .tileset) { paint tileP1 (busyAt 3 4 8 .pack 0) with ct := ⟨0, 1, 2, 5⟩, nblk := 1 })
      (fun t => (t.pixStage, t.phase, t.blk)) =
      some ([0x1B, 0xE4, 0x00, 0x55, 0xAA, 0xFF, 0x33, 0x66], .attr, 0) := by decide +kernel
/-- A sprite frame one row high, frame 1 of an image two frames wide: `0 1 2 3` three times under `[0,2,1,3]` (P2). -/
theorem test_pack_sprite_row :
    look (exec (.pack .sprite)
      { paint [List.replicate 12 9 ++ [0, 1, 2, 3, 0, 1, 2, 3, 0, 1, 2, 3]] (busyAt 0 24 1 .pack 1) with
        ct := ⟨0, 2, 1, 3⟩, nblk := 2, pixStage := [0xAA] })
      (fun t => (t.pixStage, t.phase, t.blk)) = some ([0xAA, 0x27, 0x27, 0x27], .emit, 0) := by decide +kernel

/-! ### ATTR (V6) and EMIT (V7) -/

theorem test_attr_next_tile :
    look (exec .attr { busyAt 3 8 8 .attr 0 with fg := 5, nblk := 2 }) (fun t => (t.attrStage, t.phase, t.blk)) =
      some ([0x0D], .resolve, 1) := by decide
theorem test_attr_last_tile :
    look (exec .attr { busyAt 1 8 8 .attr 1 with fg := 7, nblk := 2, attrStage := [0x0D] })
      (fun t => (t.attrStage, t.phase, t.blk)) = some ([0x0D, 0x0F], .emit, 0) := by decide
theorem test_emitS :
    look (exec .emitS { busyAt 0x2 12 21 .emit 0 with pixStage := [0x27, 0x9C] })
      (fun t => (t.attrOut, t.pixOut, readReg t 19, readReg t 20, readReg t 1)) =
      some ([], [0x27, 0x9C], 0, 2, 0x02) := by decide
theorem test_emitT_attributes :
    look (exec .emitT { busyAt 0x3 8 8 .emit 0 with pixStage := [0x1B], attrStage := [0x0D, 0x0B] })
      (fun t => (t.attrOut, t.out, readReg t 19)) = some ([0x0D, 0x0B], [0x0D, 0x0B, 0x1B], 2) := by decide
theorem test_emitT_suppressed :
    look (exec .emitT { busyAt 0x1 8 8 .emit 0 with pixStage := [0x1B], attrStage := [0x0D, 0x0B] })
      (fun t => (t.attrOut, t.pixOut, readReg t 19)) = some ([], [0x1B], 0) := by decide

/-! ### Convert on program P1 -/

/-- The pixel grid of P1. -/
def gridP1 (x y : Nat) : Idx :=
  if x < 4 then (tileP1.getD y []).getD x 0 else (tileP1b.getD y []).getD (x - 4) 0

theorem test_convert_P1 :
    (match convert ⟨.tileset, true, none, none, 0, 1, 2, 8, 8⟩ gridP1 with
      | .ok o => some (o.attrOut ++ o.pixOut, o.ct, o.fg, o.nblk)
      | .error _ => none) =
      some ([0x0D, 0x0B, 0x1B, 0xE4, 0x00, 0x55, 0xAA, 0xFF, 0x33, 0x66, 0xFF, 0xC3, 0xC3, 0xFF, 0x00, 0x55, 0xAA, 0xE4],
        ⟨0, 1, 2, 3⟩, 3, 2) := by decide +kernel

end Sys2Proof.Tests
end

