-- ==== Sys2Proof/Tests/Witness0.lean ====
section
/-! SUPPORT. Witnesses: for every statement with hypotheses, a named theorem `witness_<statement>` that shows a concrete state
and operands that meet all of them together, one for each clause and at boundary values. -/

namespace Sys2Proof.Tests
-- One declaration is checked at a time, which keeps the peak of memory low.
set_option Elab.async false
open Sys2Proof Sys2Proof.Machine

/-- A tileset image of one tile, all of colour 5, about to be packed. -/
def wPack : State :=
  { paint (List.replicate 8 [5, 5, 5, 5]) (busyAt 3 4 8 .pack 0) with
    nblk := 1, bpb := 8, ct := ⟨0, 1, 2, 5⟩, fg := 5, tset := [5], ns := [5] }

/-- A sprite conversion of one frame after SPLIT.S. -/
def wSprite : State := { busyAt 0xC 12 21 .resolve 0 with nblk := 1, bpb := 63 }

/-- One row of a sprite image of one frame, all of colour 5, about to be packed. -/
def wRow : State :=
  { paint [List.replicate 12 5] (busyAt 0 12 1 .pack 0) with nblk := 1, bpb := 3, ct := ⟨0, 0, 0, 5⟩ }

/-- A tileset image of two tiles, the first already done; the second has a colour out of range. -/
def wTile : State :=
  { paint (List.replicate 8 [5, 5, 5, 5, 9, 9, 9, 9]) (busyAt 3 8 8 .resolve 1) with
    nblk := 2, bpb := 8, pixStage := List.replicate 8 0xFF, attrStage := [0x0D] }

/-- The end of a tileset conversion of one tile. -/
def wEmit : State :=
  { busyAt 3 4 8 .emit 0 with nblk := 1, bpb := 8, pixStage := List.replicate 8 0, attrStage := [0x08] }

/-- A finished conversion of one tile. -/
def wDone : State :=
  { State.reset with
    life := .done, ctrl := 3, imgW := 4, imgH := 8, nblk := 1, bpb := 8, pixOut := List.replicate 8 0, attrOut := [0x08]
    pixLen := 8, attrLen := 1, sh1 := 1, sh2 := 2 }

/-- An idle block with a configuration written. -/
def wIdle : State := { State.reset with imgW := 12, imgH := 21, ctrl := 0xC, tc := 3 }

/-- A failed conversion. -/
def wFailed : State := { wIdle with life := .failed, err := some .sizeMismatch, phase := .split }

/-- `s` with one more move of the outside world to make. -/
def said (a : HostAction) (s : State) : State := { s with host := [a] }

theorem cleared_idle : Cleared wIdle := ⟨rfl, rfl, rfl, rfl, rfl, rfl, rfl, rfl, rfl, rfl, rfl, rfl, rfl⟩

theorem inv_wIdle : Inv wIdle :=
  ⟨by decide, by decide, by decide, by decide, by decide, ⟨cleared_idle, rfl, rfl, rfl, rfl⟩⟩

theorem inv_wFailed : Inv wFailed :=
  ⟨by decide, by decide, by decide, by decide, by decide,
    ⟨⟨rfl, rfl, rfl, rfl, rfl, rfl, rfl, rfl, rfl, rfl, rfl, rfl, rfl⟩, rfl,
      ⟨.sizeMismatch, rfl, by decide, by decide, rfl, fun _ => rfl⟩, by decide⟩⟩

theorem inv_wDone : Inv wDone :=
  ⟨by decide, by decide, by decide, by decide, by decide,
    ⟨rfl, rfl, rfl, rfl, rfl, rfl, rfl, .inr ⟨rfl, by decide⟩, by decide, by decide, by decide, by decide,
      by unfold AttrRange; decide⟩⟩

theorem inv_wPack : Inv wPack :=
  ⟨by decide, by decide, by decide, by decide +kernel, by decide,
    ⟨⟨by decide, by decide, fun _ => ⟨by decide, by decide, by decide⟩⟩, rfl, rfl, rfl, rfl, rfl, rfl,
      ⟨by unfold AttrRange; decide, ⟨rfl, rfl, rfl, rfl, by decide, by decide⟩, by decide, rfl, rfl, rfl,
        by unfold Covers; decide +kernel⟩⟩⟩

theorem inv_wSprite : Inv wSprite :=
  ⟨by decide, by decide, by decide, by decide, by decide,
    ⟨⟨by decide, by decide, fun h => absurd h (by decide)⟩, rfl, rfl, rfl, rfl, rfl, rfl,
      ⟨rfl, rfl, ⟨rfl, rfl, rfl, by decide⟩, rfl, rfl⟩⟩⟩

theorem inv_wTile : Inv wTile :=
  ⟨by decide, by decide, by decide, by decide +kernel, by decide,
    ⟨⟨by decide, by decide, fun _ => ⟨by decide, by decide, by decide⟩⟩, rfl, rfl, rfl, rfl, rfl, rfl,
      ⟨by unfold AttrRange; decide, ⟨rfl, rfl, rfl, rfl, by decide, by decide⟩, by decide, rfl, rfl⟩⟩⟩

theorem inv_wEmit : Inv wEmit :=
  ⟨by decide, by decide, by decide, by decide, by decide,
    ⟨⟨by decide, by decide, fun _ => ⟨by decide, by decide, by decide⟩⟩, rfl, rfl, rfl, rfl, rfl, rfl,
      ⟨by unfold AttrRange; decide, ⟨rfl, rfl, rfl, rfl, by decide, by decide⟩, rfl, rfl, rfl⟩⟩⟩

/-! Encodings, the step -/

theorem witness_DecodeAndEncodeAgree :
    (Instr.pack .tileset).wf = true ∧ decode (.selector 0b1011#4) = .ok (.pack .tileset) := by decide

theorem witness_ReservedCodesAreRejected :
    (0x00#8 ≠ 0x01#8 ∧ 0x00#8 ≠ 0x02#8) ∧ (0x03#8 ≠ 0x01#8 ∧ 0x03#8 ≠ 0x02#8) ∧ (0xFF#8 ≠ 0x01#8 ∧ 0xFF#8 ≠ 0x02#8) := by
  decide

theorem witness_SequencerRunsTheSelectedOperation :
    (wEmit.host = [] ∧ wEmit.life = .busy ∧ decodeSelector (selector wEmit) = .ok .emitT) ∧
      (said .wait wEmit).host = .wait :: [] ∧ (wIdle.host = [] ∧ wIdle.life ≠ .busy) := by decide

theorem witness_CommandWriteRunsTheCommand :
    (said (.wr 0 0x102) wIdle).host = .wr 0 0x102 :: [] ∧ (said (.wr 0 0x102) wIdle).life ≠ .busy ∧
      decodeCommand (BitVec.ofNat 8 0x102) = .ok .clr := by decide

theorem witness_ReservedCommandChangesNothing :
    (said (.wr 0 0) wDone).host = .wr 0 0 :: [] ∧ 0 % 256 ≠ 1 ∧ 0 % 256 ≠ 2 ∧
      (said (.wr 0 3) wPack).host = .wr 0 3 :: [] ∧ 3 % 256 ≠ 1 ∧ 3 % 256 ≠ 2 := by decide +kernel

/-- The operation that `s`'s selector decodes to answers a next state that is not FAILED. -/
def goesOn (s : State) : Bool :=
  match decodeSelector (selector s) with
  | .ok i => look (exec i s) (fun t => decide (t.life ≠ .failed)) == some true
  | .error _ => false

/-- One state for each clause: SPLIT, RESOLVE, PACK (with a block left and without), ATTR (the same) and EMIT. -/
theorem witness_SequencerFollowsTheFixedSequence :
    ∀ s ∈ [busyAt 0 12 21 .split 0, busyAt 1 4 8 .split 0, { wRow with phase := .resolve }, { wTile with blk := 0 },
      { wRow with nblk := 2 }, wRow, wPack, { wTile with blk := 0, phase := .pack, ct := ⟨0, 1, 2, 5⟩ },
      { wTile with blk := 0, phase := .attr }, { wTile with phase := .attr }, busyAt 0 12 21 .emit 0, wEmit],
      s.life = .busy ∧ goesOn s = true := by decide +kernel

/-! Registers -/

theorem witness_ResetAbandonsTheConversion :
    (said .reset wPack).host = .reset :: [] ∧ (said .reset wPack).life = .busy := by decide +kernel

theorem witness_RegisterWriteIsTruncatedAndLocal :
    ∀ n ∈ [1, 4, 5, 11, 12, 20, 21],
      (said (.wr n 0x1FFFF) wIdle).host = .wr n 0x1FFFF :: [] ∧ n ≠ 0 ∧ (said (.wr n 0x1FFFF) wIdle).life ≠ .busy := by
  decide

theorem witness_RegisterWriteClauses :
    regAccess 4 = .rw ∧ regAccess 11 = .rw ∧ regAccess 3 ≠ .rw ∧ regAccess 12 ≠ .rw ∧ regAccess 21 ≠ .rw := by decide

theorem witness_BusyLocksTheRegisters :
    (said (.wr 4 0xF) wEmit).life = .busy ∧ (said (.wr 4 0xF) wEmit).host = .wr 4 0xF :: [] ∧
      (regAccess 2 = .r ∧ 2 ≠ 1) ∧ (regAccess 20 = .r ∧ 20 ≠ 1) ∧
      (∃ t, step wEmit = .next t) ∧ ∀ q, wEmit.host ≠ .reset :: q :=
  ⟨rfl, rfl, by decide, by decide, ⟨_, rfl⟩, by intro q h; cases h⟩

theorem witness_StatusAndErrFields : wFailed.life ≠ .busy ∧ wFailed.err = some .sizeMismatch := by decide

theorem witness_RegisterReadHasNoSideEffect : (said (.rd 20) wDone).host = .rd 20 :: [] ∧ (0 = 0 ∨ 21 ≤ 0) ∧ 21 ≤ 21 := by
  decide

theorem witness_OutputReadsReturnTheElement :
    ((said (.rdAttr 0) wDone).host = .rdAttr 0 :: [] ∧ wDone.attrOut[0]? = some 0x08) ∧
      ((said (.rdPix 7) wDone).host = .rdPix 7 :: [] ∧ wDone.pixOut[7]? = some 0) ∧
      ((said (.rdAttr 1) wDone).host = .rdAttr 1 :: [] ∧ wDone.attrOut.length ≤ 1) ∧
      (said (.rdPix 8) wDone).host = .rdPix 8 :: [] ∧ wDone.pixOut.length ≤ 8 := by decide

/-! PIX -/

theorem witness_PixWriteReadsBack :
    (said (.pix 65535 0 7) wIdle).host = .pix 65535 0 7 :: [] ∧ (said (.pix 65535 0 7) wIdle).life ≠ .busy ∧
      65535 < 2 ^ wIdle.cfg.dimBits ∧ 0 < 2 ^ wIdle.cfg.dimBits ∧ 2 ^ wIdle.cfg.dimBits ≤ 65536 ∧
      Memory.wf wIdle.pix = true := by decide

theorem witness_PixWriteWhileBusyIsRefused :
    (said (.pix 0 0 7) wEmit).host = .pix 0 0 7 :: [] ∧ (said (.pix 0 0 7) wEmit).life = .busy := by decide

theorem witness_OnlyTheHostChangesPix :
    (∃ t, step wEmit = .next t) ∧ (∀ x y v q, wEmit.host ≠ .pix x y v :: q) ∧ ∀ q, wEmit.host ≠ .reset :: q :=
  ⟨⟨_, rfl⟩, (by intro x y v q h; cases h), by intro q h; cases h⟩

theorem witness_PixLinearAddress : 11 < wIdle.imgW ∧ 20 < wIdle.imgH := by decide

/-! Commands -/

theorem witness_ConvStartsAConversion :
    wEmit.life = .busy ∧ wIdle.life ≠ .busy ∧ LegalConfig wIdle ∧ wDone.life ≠ .busy ∧ LegalConfig wDone :=
  ⟨rfl, by decide, ⟨by decide, by decide, fun h => absurd h (by decide)⟩, by decide,
    ⟨by decide, by decide, fun _ => ⟨by decide, by decide, by decide⟩⟩⟩

theorem witness_ConvWithoutMeaningIsRefused :
    (State.reset.life ≠ .busy ∧ State.reset.imgW = 0) ∧ ({ wDone with imgH := 0 } : State).imgH = 0 ∧
      ({ wDone with sh2 := 1 } : State).life ≠ .busy ∧ 1 ≤ wDone.imgW ∧ 1 ≤ wDone.imgH ∧ wDone.mode = .tileset ∧
      ¬ SharedDistinct { wDone with sh2 := 1 } :=
  ⟨by decide, rfl, by decide, by decide, by decide, by decide, fun h => h.2.2 rfl⟩

theorem witness_ClrReleasesTheResults :
    wEmit.life = .busy ∧ wDone.life ≠ .busy ∧ wIdle.life = .idle ∧ Inv wIdle := ⟨rfl, by decide, rfl, inv_wIdle⟩

theorem witness_NothingSurvivesIntoTheNextConversion :
    wFailed.life ≠ .busy ∧ wIdle.life ≠ .busy ∧ SameInputs wFailed wIdle :=
  ⟨by decide, by decide, ⟨rfl, rfl, rfl, rfl, rfl, rfl, rfl, rfl, rfl, rfl, rfl, rfl, rfl⟩⟩

/-! The operations -/

theorem witness_SplitSpriteSizesTheImage :
    (1 ≤ (busyAt 0 12 42 .split 0).imgW ∧ 1 ≤ (busyAt 0 12 42 .split 0).imgH ∧ 12 % 12 = 0 ∧ 42 % 21 = 0) ∧
      (1 ≤ (busyAt 0 13 21 .split 0).imgW ∧ 13 % 12 ≠ 0) ∧ 1 ≤ (busyAt 0 12 22 .split 0).imgH ∧ 22 % 21 ≠ 0 := by decide

/-- 256 tiles and 257 tiles, and both wrong dimensions. -/
theorem witness_SplitTilesetSizesTheImage :
    (1024 % 4 = 0 ∧ 8 % 8 = 0 ∧ 1024 / 4 * (8 / 8) ≤ 256) ∧ (1028 % 4 = 0 ∧ 256 < 1028 / 4 * (8 / 8)) ∧
      6 % 4 ≠ 0 ∧ 9 % 8 ≠ 0 ∧ 1 ≤ (busyAt 1 1028 8 .split 0).imgW ∧ 1 ≤ (busyAt 1 1028 8 .split 0).imgH := by decide

theorem witness_FramesPartitionTheImage : 24 = 12 * 2 ∧ 1 < 2 ∧ 12 < 24 ∧ 41 < 42 := by decide

theorem witness_TilesPartitionTheImage : 8 % 4 = 0 ∧ 16 % 8 = 0 ∧ 3 < 8 / 4 * (16 / 8) ∧ 7 < 8 ∧ 15 < 16 := by decide

/-- A one-row image with the given pixels, about to be resolved with the given constraints. -/
def rowImage (ctrl : BitVec 4) (tc sc : Nibble) (ps : List Idx) : State :=
  { paint [ps] (busyAt ctrl ps.length 1 .resolve 0) with tc := tc, sc := sc }

/-- The pixels of the whole image. -/
def pixels (s : State) : List Idx := blockPixels (pixRead s) ⟨0, 0, s.imgW, s.imgH⟩

/-- Five colours; equal constraints; `tc` and then `sc` absent from an image of four colours, and 7 from one of two. -/
theorem witness_ResolveSpriteFailures :
    4 < (pixels (rowImage 0 0 0 [0, 1, 2, 3, 4])).toFinset.card ∧
      (∀ s ∈ [rowImage 0xC 1 1 [0, 1, 2, 3]], (pixels s).toFinset.card ≤ 4 ∧ s.tcEn = true ∧ s.scEn = true ∧ s.tc = s.sc) ∧
      (∀ s ∈ [rowImage 0x4 0 0 [1, 2, 3, 4], rowImage 0x4 7 0 [1, 2]], (pixels s).toFinset.card ≤ 4 ∧ s.tcEn = true ∧
        s.tc.zeroExtend 8 ∉ pixels s ∧ (s.tc ≠ 0 ∨ (pixels s).toFinset.card = 4)) ∧
      ∀ s ∈ [rowImage 0x8 0 0 [1, 2, 3, 4], rowImage 0x8 0 7 [1, 2]], (pixels s).toFinset.card ≤ 4 ∧ s.scEn = true ∧
        s.sc.zeroExtend 8 ∉ pixels s ∧ (s.sc ≠ 0 ∨ (pixels s).toFinset.card = 4) := by decide +kernel

/-- No constraint, each alone, both; a constraint found among the pixels and among the padding zeros. -/
theorem witness_ResolveSpriteTable :
    ∀ s ∈ [rowImage 0 0 0 [5, 6], rowImage 0x4 0 0 [1, 2], rowImage 0x8 0 6 [5, 6], rowImage 0xC 5 0 [0, 5],
        rowImage 0xC 0 1 [0, 1, 2, 3]],
      (pixels s).toFinset.card ≤ 4 ∧ ¬ (s.tcEn = true ∧ s.scEn = true ∧ s.tc = s.sc) ∧
        (s.tcEn = true → s.tc.zeroExtend 8 ∈ pixels s ∨ (s.tc = 0 ∧ (pixels s).toFinset.card < 4)) ∧
        (s.scEn = true → s.sc.zeroExtend 8 ∈ pixels s ∨ (s.sc = 0 ∧ (pixels s).toFinset.card < 4)) := by decide +kernel

/-- The colours of tile BLK that are not shared. -/
def foregrounds (s : State) : Finset Idx :=
  (blockPixels (pixRead s) (blockT s.imgW s.blk)).toFinset \ [s.sh0, s.sh1, s.sh2].toFinset

/-- Two foregrounds; one just out of range; one just in range; none. -/
theorem witness_ResolveTileTable :
    1 < (foregrounds (paint (List.replicate 8 [0, 1, 5, 6]) (busyAt 3 4 8 .resolve 0))).card ∧
      (foregrounds (paint (List.replicate 8 [0, 1, 8, 8]) (busyAt 3 4 8 .resolve 0)) = [(8 : Idx)].toFinset ∧
        7 < (8 : Idx).toNat) ∧
      (foregrounds (paint (List.replicate 8 [0, 1, 7, 7]) (busyAt 3 4 8 .resolve 0)) = [(7 : Idx)].toFinset ∧
        (7 : Idx).toNat ≤ 7) ∧
      foregrounds (paint (List.replicate 8 [0, 1, 2, 2]) (busyAt 3 4 8 .resolve 0)) = ∅ := by decide +kernel

/-- Every pixel of the block in CT, in both modes. -/
theorem witness_PackAppendsTheBlock :
    (∀ x < 12, ∀ y < 1, pixRead wRow x y ∈ wRow.ct.toList) ∧ ∀ x < 4, ∀ y < 8, pixRead wPack x y ∈ wPack.ct.toList := by decide +kernel

theorem witness_PackRaisesColorNotInTable :
    pixRead wTile 7 7 ∉ wTile.ct.toList ∧ blockOf .tileset wTile.imgW wTile.imgH wTile.blk = ⟨4, 0, 4, 8⟩ := by
  decide +kernel

theorem witness_PackedByteIsTheSumOfItsLanes :
    ∀ p ∈ [5, 0, 0, 5], p ∈ (ColorTable.mk 5 0 0 0).toList := by decide

theorem witness_AttrAppendsTheAttributeByte : (0 : Idx).toNat ≤ 7 ∧ (7 : Idx).toNat ≤ 7 := by decide

theorem witness_EmitTilesetCommits :
    (busyAt 0x3 4 8 .emit 0).attrEn = true ∧ (busyAt 0x1 4 8 .emit 0).attrEn = false := by decide

/-! Failures, life cycle, invariants -/

/-- SPLIT.S fails at a 13 by 21 image, RESOLVE.T at tile 1. -/
theorem witness_FailureEntryDiscardsEverything :
    wFailed.life = .failed ∧ ((busyAt 0 13 21 .split 0).life = .busy ∧
        look (exec .splitS (busyAt 0 13 21 .split 0)) (fun t => t.life) = some .failed) ∧
      wTile.life = .busy ∧ look (exec .resolveT wTile) (fun t => (t.life, t.errIdx)) = some (.failed, 1) := by
  decide +kernel

theorem witness_FailedIsLeftOnlyByCommandOrReset :
    wFailed.life = .failed ∧ look (step (said (.wr 0 2) wFailed)) (fun t => t.life) = some .idle ∧
      look (step (said (.wr 0 1) wFailed)) (fun t => t.life) = some .busy ∧
      look (step (said .reset wFailed)) (fun t => t.life) = some .idle := by decide

theorem witness_StateIsSetOnlyByItsCauses :
    look (step (said (.wr 0 1) wIdle)) (fun t => t.life) = some .busy ∧
      look (step wEmit) (fun t => t.life) = some .done ∧ look (step wTile) (fun t => t.life) = some .failed ∧
      look (step (said (.wr 0 2) wDone)) (fun t => t.life) = some .idle := by decide +kernel

theorem witness_PackNeverFailsInAConversion : Inv wPack ∧ wPack.life = .busy ∧ wPack.phase = .pack :=
  ⟨inv_wPack, rfl, rfl⟩

/-- One state in each STATE that satisfies the invariant and takes a step. -/
theorem witness_EveryStepKeepsTheInvariant :
    (Inv wIdle ∧ ∃ t, step wIdle = .next t) ∧ (Inv wPack ∧ ∃ t, step wPack = .next t) ∧
      (Inv wTile ∧ ∃ t, step wTile = .next t) ∧ (Inv wSprite ∧ ∃ t, step wSprite = .next t) ∧ (Inv wDone ∧ ∃ t, step wDone = .next t) ∧
      Inv wFailed ∧ ∃ t, step wFailed = .next t :=
  ⟨⟨inv_wIdle, _, rfl⟩, ⟨inv_wPack, _, rfl⟩, ⟨inv_wTile, _, rfl⟩, ⟨inv_wSprite, _, rfl⟩, ⟨inv_wDone, _, rfl⟩, inv_wFailed, _, rfl⟩

theorem witness_RegistersFitTheirWidths : Inv wDone ∧ 0 ≤ 20 ∧ 20 ≤ 20 := ⟨inv_wDone, by decide, by decide⟩

theorem witness_OutputIsAllOrNothing :
    Inv wEmit ∧ wEmit.life = .busy ∧ look (step wEmit) (fun t => t.life) = some .done :=
  ⟨inv_wEmit, rfl, by decide⟩

/-! The whole conversion -/

theorem witness_ConversionEndsAsConvertSays :
    (said (.wr 0 1) wIdle).life ≠ .busy ∧ (said (.wr 0 1) wIdle).host = [.wr 0 1] ∧ LegalConfig (said (.wr 0 1) wIdle) :=
  ⟨by decide, rfl, by decide, by decide, fun h => absurd h (by decide)⟩

theorem witness_EveryConversionEnds :
    (Inv wTile ∧ wTile.life = .busy ∧ wTile.host = []) ∧ Inv wSprite ∧ wSprite.life = .busy ∧ wSprite.host = [] :=
  ⟨⟨inv_wTile, rfl, rfl⟩, inv_wSprite, rfl, rfl⟩

/-- Some successful conversion. -/
def succeeds (c : ConvConfig) (g : Nat → Nat → Idx) : Bool :=
  match convert c g with
  | .ok _ => true
  | .error _ => false

theorem exists_of_succeeds {c : ConvConfig} {g : Nat → Nat → Idx} (h : succeeds c g = true) :
    ∃ o, convert c g = .ok o := by
  unfold succeeds at h
  cases hc : convert c g with
  | ok o => exact ⟨o, rfl⟩
  | error e => rw [hc] at h; cases h

theorem witness_SpriteOutputDecodesToTheImage :
    ∃ o, convert ⟨.sprite, false, some 5, some 0, 0, 0, 0, 12, 21⟩ (fun x y => if (x + y) % 2 = 0 then 5 else 0) = .ok o :=
  exists_of_succeeds (by decide +kernel)

theorem witness_TilesetOutputDecodesToTheImage :
    ∃ o, convert ⟨.tileset, true, none, none, 0, 1, 2, 8, 8⟩ gridP1 = .ok o :=
  exists_of_succeeds (by decide +kernel)

/-- Each clause: a wrong size, 257 tiles, and a failure at tile 1 (P3c). -/
theorem witness_FirstFailureIsReported :
    (1030 % 4 ≠ 0 ∨ 8 % 8 ≠ 0) ∧ (1028 % 4 = 0 ∧ 8 % 8 = 0 ∧ 256 < 1028 / 4 * (8 / 8)) ∧
      (8 % 4 = 0 ∧ 8 % 8 = 0 ∧ 8 / 4 * (8 / 8) ≤ 256) ∧
      (match convert ⟨.tileset, false, none, none, 0, 1, 2, 8, 8⟩ (fun x y => if gridP1 x y = 3 then 9 else gridP1 x y) with
        | .error e => some e
        | .ok _ => none) = some ⟨.foregroundOutOfRange, .resolve, 1⟩ := by decide +kernel

/-- Two blocks that differ only in the other mode's configuration. -/
theorem witness_ModesIgnoreEachOthersConfiguration :
    (wIdle.mode = .sprite ∧ ({ wIdle with sh0 := 7, ctrl := 0xE } : State).mode = .sprite ∧
        pixRead wIdle = pixRead { wIdle with sh0 := 7, ctrl := 0xE }) ∧
      wDone.mode = .tileset ∧ ({ wDone with tc := 7, ctrl := 0xF } : State).mode = .tileset ∧
      wDone.attrEn = ({ wDone with tc := 7, ctrl := 0xF } : State).attrEn ∧
      pixRead wDone = pixRead { wDone with tc := 7, ctrl := 0xF } :=
  ⟨⟨by decide, by decide, rfl⟩, by decide, by decide, by decide, rfl⟩

/-! Fields and contents -/

theorem witness_RegisterFileTable : wDone.life ≠ .busy := by decide

theorem staged_wTile : StagedContents wTile := by
  show TilesStaged wTile 1 1
  refine ⟨[(5, List.replicate 8 0xFF)], rfl, by decide, by decide, fun k t h => ?_⟩
  cases k with
  | zero => cases h; exact ⟨by decide +kernel, by decide +kernel⟩
  | succ k => cases h

/-- A tile to pack with nothing staged yet, a tile to resolve after one is done, a sprite to resolve, an idle block, and one
that a CONV starts. -/
theorem witness_EveryStepKeepsTheStagedContents :
    (Inv wPack ∧ StagedContents wPack ∧ ∃ t, step wPack = .next t ∧ t.life = .busy) ∧
      (Inv wTile ∧ StagedContents wTile ∧ ∃ t, step wTile = .next t) ∧
      (Inv wSprite ∧ StagedContents wSprite ∧ ∃ t, step wSprite = .next t) ∧
      Inv wIdle ∧ wIdle.life ≠ .busy ∧ ∃ t, step (said (.wr 0 1) wIdle) = .next t ∧ t.life = .busy :=
  ⟨⟨inv_wPack, ⟨tilesStaged_zero rfl rfl, by decide +kernel⟩, _, rfl, by decide +kernel⟩,
    ⟨inv_wTile, staged_wTile, _, rfl⟩, ⟨inv_wSprite, framesStaged_zero rfl, _, rfl⟩, inv_wIdle, by decide, _, rfl, by decide⟩

end Sys2Proof.Tests
end

section
/-! PROOFS. What one step can be, said once; the operation at each position of a conversion; and the invariant under
the host's moves (spec/10_state.md, spec/45_host_commands.md). -/

namespace Sys2Proof.Machine

/-! ### One step as one turn -/

/-- `Turn a s t`: the outside world's move `a` takes the block from `s` to `t`, by what happens and when. -/
inductive Turn (s : State) : HostAction → State → Prop where
  /-- The move has no effect (R42, R43, R209; the sequencer of a block that is not BUSY). -/
  | ignored (a : HostAction) : Turn s a s
  /-- A read changes what the host sees on the bus and nothing of the block (R43). -/
  | read (a : HostAction) (b : Option Nat) : Turn s a { s with busRead := b }
  /-- Reset (R260). -/
  | reset : Turn s .reset (resetBlock s)
  /-- A host write to PIX (R47). -/
  | pix (x y : Nat) (v : Idx) (idle : s.life ≠ .busy) : Turn s (.pix x y v) (pixWrite s x y v)
  /-- A host write to a register other than CMD (R29, R43). -/
  | register (n v : Nat) (idle : s.life ≠ .busy) : Turn s (.wr n v) (writeReg n v s)
  /-- CONV (R205). -/
  | conv (v : Nat) (idle : s.life ≠ .busy) (code : v % 256 = 1) (legal : convRefusal s = none) :
    Turn s (.wr 0 v) (startConversion s)
  /-- CLR (R208). -/
  | clr (v : Nat) (idle : s.life ≠ .busy) (code : v % 256 = 2) : Turn s (.wr 0 v) (releaseResults s)
  /-- The sequencer's turn of a BUSY block (R25, R100). -/
  | operation {i : Instr} {t : State} (busy : s.life = .busy) (selected : decodeSelector (selector s) = .ok i)
    (runs : exec i s = .next t) : Turn s .wait t

/-- The two command codes (R96), by number. -/
theorem decodeCommand_eq_ok {v : Nat} {i : Instr} (h : decodeCommand (BitVec.ofNat 8 v) = .ok i) :
    (v % 256 = 1 ∧ i = .conv) ∨ (v % 256 = 2 ∧ i = .clr) := by
  unfold decodeCommand at h
  split at h
  · next e => cases h; exact .inl ⟨by simpa using congrArg BitVec.toNat e, rfl⟩
  · split at h
    · next e => cases h; exact .inr ⟨by simpa using congrArg BitVec.toNat e, rfl⟩
    · cases h

theorem sequencerTurn_turn {s t : State} (h : sequencerTurn s = .next t) : Turn s .wait t := by
  unfold sequencerTurn at h
  split at h
  · next busy =>
    split at h
    · next i selected => exact .operation busy selected h
    · cases h; exact .ignored _
    · cases h
  · cases h; exact .ignored _

theorem commandWrite_turn {s t : State} {v : Nat} (h : commandWrite v s = .next t) : Turn s (.wr 0 v) t := by
  unfold commandWrite at h
  split at h
  · cases h; exact .ignored _
  · next idle =>
    split at h
    · next i hi =>
      obtain ⟨code, rfl⟩ | ⟨code, rfl⟩ := decodeCommand_eq_ok hi
      · simp only [exec, execConv, if_neg idle] at h
        split at h
        · cases h
        · next legal => cases h; exact .conv v idle code legal
      · simp only [exec, execClr, if_neg idle] at h
        cases h; exact .clr v idle code
    · cases h; exact .ignored _

theorem outputRead_turn {s t : State} {mem : List Byte} {i : Nat} (a : HostAction)
    (h : outputRead mem i s = .next t) : Turn s a t := by
  unfold outputRead at h
  split at h
  · cases h; exact .read a _
  · cases h

/-- Every move of the outside world that answers a next state is a turn. -/
theorem hostTurn_turn {a : HostAction} {s t : State} (h : hostTurn a s = .next t) : Turn s a t := by
  cases a with
  | wait => exact sequencerTurn_turn h
  | reset => cases h; exact .reset
  | rd n => cases h; exact .read _ _
  | rdAttr i => exact outputRead_turn _ h
  | rdPix i => exact outputRead_turn _ h
  | pix x y v =>
    simp only [hostTurn] at h
    split at h
    · cases h
    · next idle => cases h; exact .pix x y v idle
  | wr n v =>
    simp only [hostTurn] at h
    split at h
    · next e => subst e; exact commandWrite_turn h
    · cases h
      by_cases busy : s.life = .busy
      · unfold writeReg; rw [if_pos busy]; exact .ignored _
      · exact .register n v busy

/-- A move that is placed is made, on the block with that move taken off. -/
theorem step_eq_hostTurn {s : State} {a : HostAction} {q : List HostAction} (h : s.host = a :: q) :
    step s = hostTurn a { s with host := q } := by
  simp only [step, h]

/-- A step is one turn: of the move at the head of the list, or of the sequencer, as if the host waited, when
the list is empty. -/
theorem step_turn {s t : State} (h : step s = .next t) :
    ∃ a q, (s.host = a :: q ∨ (s.host = [] ∧ a = .wait)) ∧ Turn { s with host := q } a t := by
  rcases step_cases s with ⟨e, hs⟩ | ⟨q, e, hs⟩ | ⟨a, q, e, -, hs⟩ <;> rw [hs] at h
  · refine ⟨.wait, [], .inr ⟨e, rfl⟩, ?_⟩
    rw [← e]
    exact sequencerTurn_turn h
  · exact ⟨.wait, q, .inl e, sequencerTurn_turn h⟩
  · exact ⟨a, q, .inl e, hostTurn_turn h⟩

/-- The operation of each position of the two sequences (R100, R206, R207). -/
inductive AtPosition (s : State) : Instr → Prop where
  | splitS (mode : s.mode = .sprite) (phase : s.phase = .split) : AtPosition s .splitS
  | splitT (mode : s.mode = .tileset) (phase : s.phase = .split) : AtPosition s .splitT
  | resolveS (mode : s.mode = .sprite) (phase : s.phase = .resolve) : AtPosition s .resolveS
  | resolveT (mode : s.mode = .tileset) (phase : s.phase = .resolve) : AtPosition s .resolveT
  | packS (mode : s.mode = .sprite) (phase : s.phase = .pack) : AtPosition s (.pack .sprite)
  | packT (mode : s.mode = .tileset) (phase : s.phase = .pack) : AtPosition s (.pack .tileset)
  | attr (mode : s.mode = .tileset) (phase : s.phase = .attr) : AtPosition s .attr
  | emitS (mode : s.mode = .sprite) (phase : s.phase = .emit) : AtPosition s .emitS
  | emitT (mode : s.mode = .tileset) (phase : s.phase = .emit) : AtPosition s .emitT

/-- What the selector decodes to stands at the position it encodes. -/
theorem atPosition_of_selected {s : State} {i : Instr} (h : decodeSelector (selector s) = .ok i) : AtPosition s i := by
  rw [decodeSelector_selector] at h
  cases mode : s.mode <;> cases phase : s.phase <;> simp only [mode, phase] at h <;> cases h
  case sprite.split => exact .splitS mode phase
  case tileset.split => exact .splitT mode phase
  case sprite.resolve => exact .resolveS mode phase
  case tileset.resolve => exact .resolveT mode phase
  case sprite.pack => exact .packS mode phase
  case tileset.pack => exact .packT mode phase
  case tileset.attr => exact .attr mode phase
  case sprite.emit => exact .emitS mode phase
  case tileset.emit => exact .emitT mode phase

/-! ### The invariant under changes that are no part of a conversion -/

/-- Each STATE's part of the invariant. -/
theorem Inv.idle {s : State} (h : Inv s) (hl : s.life = .idle) : IdleInv s := by
  simpa only [hl] using h.life

theorem Inv.busy {s : State} (h : Inv s) (hl : s.life = .busy) : BusyInv s := by
  simpa only [hl] using h.life

theorem Inv.done {s : State} (h : Inv s) (hl : s.life = .done) : DoneInv s := by
  simpa only [hl] using h.life

theorem Inv.failed {s : State} (h : Inv s) (hl : s.life = .failed) : FailedInv s := by
  simpa only [hl] using h.life

theorem cleared_visited {s : State} (q : List HostAction) (b : Option Nat) :
    Cleared { s with host := q, busRead := b } ↔ Cleared s :=
  ⟨fun h => { h with }, fun h => { h with }⟩

theorem BusyInv.visited {s : State} (h : BusyInv s) (q : List HostAction) (b : Option Nat) :
    BusyInv { s with host := q, busRead := b } where
  legal := h.legal
  err := h.err
  errIdx := h.errIdx
  attrOut := h.attrOut
  pixOut := h.pixOut
  attrLen := h.attrLen
  pixLen := h.pixLen
  position := by
    have hp := h.position
    simp only [SpritePosition, TilePosition, cleared_visited] at hp ⊢
    exact hp

/-- The invariant of a block, STATE by STATE. -/
theorem inv_of_life {s : State} (dimBits : 9 ≤ s.cfg.dimBits) (imgW : s.imgW < 2 ^ s.cfg.dimBits)
    (imgH : s.imgH < 2 ^ s.cfg.dimBits) (pix : Memory.wf s.pix = true) (fg : s.fg.toNat ≤ 7)
    (idle : s.life = .idle → IdleInv s) (busy : s.life = .busy → BusyInv s) (done : s.life = .done → DoneInv s)
    (failed : s.life = .failed → FailedInv s) : Inv s := by
  refine ⟨dimBits, imgW, imgH, pix, fg, ?_⟩
  cases hl : s.life with
  | idle => exact idle hl
  | busy => exact busy hl
  | done => exact done hl
  | failed => exact failed hl

/-- The outside world's own fields do not enter into the invariant. -/
theorem Inv.visited {s : State} (h : Inv s) (q : List HostAction) (b : Option Nat) :
    Inv { s with host := q, busRead := b } :=
  inv_of_life h.dimBits h.imgW h.imgH h.pix h.fg
    (fun hl => { h.idle hl with cleared := (cleared_visited q b).2 (h.idle hl).cleared })
    (fun hl => (h.busy hl).visited q b)
    (fun hl => { h.done hl with })
    (fun hl => { h.failed hl with cleared := (cleared_visited q b).2 (h.failed hl).cleared })

/-- Outside a conversion the configuration and PIX are the host's to change: the invariant asks of them only that the
dimensions fit and that PIX is in canonical form. -/
theorem Inv.reconfigured {s : State} (h : Inv s) (hl : s.life ≠ .busy) (ctrl : BitVec 4) (tc sc : Nibble)
    (sh0 sh1 sh2 : Idx) {w ht : Nat} {m : List Host.Cell} (hw : w < 2 ^ s.cfg.dimBits) (hh : ht < 2 ^ s.cfg.dimBits)
    (hm : Memory.wf m = true) :
    Inv { s with
      ctrl := ctrl, tc := tc, sc := sc, sh0 := sh0, sh1 := sh1, sh2 := sh2, imgW := w, imgH := ht, pix := m } :=
  inv_of_life h.dimBits hw hh hm h.fg
    (fun hl => { h.idle hl with cleared := { (h.idle hl).cleared with } })
    (fun hb => absurd hb hl)
    (fun hl => { h.done hl with })
    (fun hl => { h.failed hl with cleared := { (h.failed hl).cleared with } })

/-! ### Register writes -/

/-- A register write changes configuration registers only, and a dimension it writes fits (R29, R37, R43). -/
theorem writeReg_eq (n v : Nat) (s : State) :
    ∃ ctrl tc sc sh0 sh1 sh2 w ht, writeReg n v s = { s with
        ctrl := ctrl, tc := tc, sc := sc, sh0 := sh0, sh1 := sh1, sh2 := sh2, imgW := w, imgH := ht } ∧
      (w = s.imgW ∨ w < 2 ^ s.cfg.dimBits) ∧ (ht = s.imgH ∨ ht < 2 ^ s.cfg.dimBits) := by
  have fits : v % 2 ^ s.cfg.dimBits < 2 ^ s.cfg.dimBits := Nat.mod_lt _ (Nat.two_pow_pos _)
  unfold writeReg
  split
  · exact ⟨_, _, _, _, _, _, _, _, rfl, .inl rfl, .inl rfl⟩
  · split
    case h_7 => exact ⟨_, _, _, _, _, _, _, _, rfl, .inr fits, .inl rfl⟩
    case h_8 => exact ⟨_, _, _, _, _, _, _, _, rfl, .inl rfl, .inr fits⟩
    all_goals exact ⟨_, _, _, _, _, _, _, _, rfl, .inl rfl, .inl rfl⟩

theorem inv_writeReg {s : State} (h : Inv s) (hl : s.life ≠ .busy) (n v : Nat) : Inv (writeReg n v s) := by
  obtain ⟨ctrl, tc, sc, sh0, sh1, sh2, w, ht, e, hw, hh⟩ := writeReg_eq n v s
  rw [e]
  exact h.reconfigured hl _ _ _ _ _ _ (hw.elim (fun e => e ▸ h.imgW) id) (hh.elim (fun e => e ▸ h.imgH) id) h.pix

/-! ### PIX writes -/

/-- A PIX write changes PIX only (R47). -/
theorem pixWrite_eq (s : State) (x y : Nat) (v : Idx) :
    pixWrite s x y v = { s with pix := (pixWrite s x y v).pix } := by
  unfold pixWrite
  split <;> rfl

theorem inv_pixWrite {s : State} (h : Inv s) (hl : s.life ≠ .busy) (x y : Nat) (v : Idx) :
    Inv (pixWrite s x y v) := by
  rw [pixWrite_eq]
  exact h.reconfigured hl _ _ _ _ _ _ h.imgW h.imgH (pixWrite_wf h.pix)

/-! ### Reset, CLR and CONV -/

theorem inv_resetBlock {s : State} (h : Inv s) : Inv (resetBlock s) where
  dimBits := h.dimBits
  imgW := Nat.two_pow_pos _
  imgH := Nat.two_pow_pos _
  pix := rfl
  fg := Nat.zero_le 7
  life := ⟨⟨rfl, rfl, rfl, rfl, rfl, rfl, rfl, rfl, rfl, rfl, rfl, rfl, rfl⟩, rfl, rfl, rfl, rfl⟩

theorem inv_releaseResults {s : State} (h : Inv s) : Inv (releaseResults s) where
  dimBits := h.dimBits
  imgW := h.imgW
  imgH := h.imgH
  pix := h.pix
  fg := Nat.zero_le 7
  life := ⟨{ clearResults_cleared s with }, rfl, rfl, rfl, rfl⟩

/-- What CONV checks is that the configuration is legal (R205, R265). -/
theorem convRefusal_eq_none {s : State} : convRefusal s = none ↔ LegalConfig s := by
  unfold convRefusal LegalConfig SharedDistinct
  split
  · next h => simp only [reduceCtorEq, false_iff]; omega
  · next h =>
    split
    · next h' => simp only [reduceCtorEq, false_iff]; tauto
    · next h' => simp only [true_iff]; exact ⟨by omega, by omega, by tauto⟩

theorem inv_startConversion {s : State} (h : Inv s) (legal : LegalConfig s) : Inv (startConversion s) where
  dimBits := h.dimBits
  imgW := h.imgW
  imgH := h.imgH
  pix := h.pix
  fg := Nat.zero_le 7
  life := {
    legal := legal
    err := rfl
    errIdx := rfl
    attrOut := rfl
    pixOut := rfl
    attrLen := rfl
    pixLen := rfl
    position := by
      have cleared : Cleared (startConversion s) := { clearResults_cleared s with }
      cases (startConversion s).mode with
      | sprite => exact ⟨rfl, rfl, rfl, cleared⟩
      | tileset => exact ⟨by simp [AttrRange], rfl, cleared⟩ }

end Sys2Proof.Machine
end

section
/-! PROOFS. Every step keeps the invariant: one lemma per operation at its position (R206, R207). -/

namespace Sys2Proof.Machine

theorem BusyInv.sprite {s : State} (h : BusyInv s) (hm : s.mode = .sprite) : SpritePosition s := by
  simpa only [hm] using h.position

theorem BusyInv.tileset {s : State} (h : BusyInv s) (hm : s.mode = .tileset) : TilePosition s := by
  simpa only [hm] using h.position

/-- The invariant after an operation that goes on: what is left to show is FG's range and the new position. -/
theorem inv_of_position {s t : State} (h : Inv s) (hb : s.life = .busy) (same : SameInputs s t) (life : t.life = .busy)
    (results : (t.err, t.errIdx, t.attrOut, t.pixOut, t.attrLen, t.pixLen) =
      (s.err, s.errIdx, s.attrOut, s.pixOut, s.attrLen, s.pixLen))
    (fg : t.fg.toNat ≤ 7)
    (position : (s.mode = .sprite ∧ SpritePosition t) ∨ (s.mode = .tileset ∧ TilePosition t)) : Inv t := by
  obtain ⟨legal, err, errIdx, attrOut, pixOut, attrLen, pixLen, -⟩ := h.busy hb
  simp only [Prod.mk.injEq] at results
  obtain ⟨e1, e2, e3, e4, e5, e6⟩ := results
  have legal' : LegalConfig t := by
    unfold LegalConfig SharedDistinct at legal ⊢
    rwa [same.mode, same.imgW, same.imgH, same.sh0, same.sh1, same.sh2]
  have busy : BusyInv t := by
    refine ⟨legal', e1.trans err, e2.trans errIdx, e3.trans attrOut, e4.trans pixOut, e5.trans attrLen,
      e6.trans pixLen, ?_⟩
    rw [same.mode]
    obtain ⟨hm, hp⟩ | ⟨hm, hp⟩ := position <;> rw [hm] <;> exact hp
  refine inv_of_life ?_ ?_ ?_ ?_ fg (by simp [life]) (fun _ => busy) (by simp [life]) (by simp [life])
  · rw [same.cfg]; exact h.dimBits
  · rw [same.cfg, same.imgW]; exact h.imgW
  · rw [same.cfg, same.imgH]; exact h.imgH
  · rw [same.pix]; exact h.pix

/-- The invariant after a failure of the component at PHASE, of a kind that the block can raise (R230, R240). -/
theorem inv_raise {s : State} {k : FailKind} {i : Nat} (h : Inv s) (hd : k ≠ .decodeFailure)
    (hc : k ≠ .colorNotInTable) (hp : s.phase = k.phase) (hi : k.perBlock = false → i = 0)
    (hf : i < 2 ^ s.cfg.dimBits) : Inv (raise k i s) where
  dimBits := h.dimBits
  imgW := h.imgW
  imgH := h.imgH
  pix := h.pix
  fg := Nat.zero_le 7
  life := ⟨(raise_failedFrom k i s).cleared, rfl, ⟨k, rfl, hd, hc, hp, hi⟩, hf⟩

/-- DIM_BITS is at least 9, so a tile count of at most 256 fits every register (R8, R122). -/
theorem Inv.le_two_pow {s : State} (h : Inv s) : 512 ≤ 2 ^ s.cfg.dimBits :=
  Nat.pow_le_pow_right (n := 2) (by decide) h.dimBits

/-! ### The splitters -/

theorem inv_execSplitS {s t : State} (h : Inv s) (hb : s.life = .busy) (hm : s.mode = .sprite) (hp : s.phase = .split)
    (ht : execSplitS s = .next t) : Inv t := by
  have same : SameInputs s t := exec_sameInputs (i := .splitS) ht
  obtain ⟨⟨hw, -, -⟩, -⟩ := h.busy hb
  obtain ⟨noAttr, fg, position⟩ := (h.busy hb).sprite hm
  simp only [hp] at position
  obtain ⟨-, cleared⟩ := position
  simp only [execSplitS, Host.Outcome.next.injEq] at ht
  rcases splitSprite_cases s.imgW s.imgH with ⟨-, e⟩ | ⟨w12, h21, e⟩ <;> rw [e] at ht <;> subst ht
  · exact inv_raise h (by decide) (by decide) hp (fun _ => rfl) (Nat.two_pow_pos _)
  · have exact12 : s.imgW = 12 * (s.imgW / 12) := by omega
    have pos : 1 ≤ s.imgW / 12 := by omega
    exact inv_of_position h hb same hb rfl h.fg
      (.inl ⟨hm, noAttr, fg, ⟨exact12, h21, rfl, pos⟩, rfl, cleared.pixStage⟩)

theorem inv_execSplitT {s t : State} (h : Inv s) (hb : s.life = .busy) (hm : s.mode = .tileset)
    (hp : s.phase = .split) (ht : execSplitT s = .next t) : Inv t := by
  have same : SameInputs s t := exec_sameInputs (i := .splitT) ht
  obtain ⟨⟨hw, hh, -⟩, -⟩ := h.busy hb
  obtain ⟨range, position⟩ := (h.busy hb).tileset hm
  simp only [hp] at position
  obtain ⟨-, cleared⟩ := position
  simp only [execSplitT, Host.Outcome.next.injEq] at ht
  rcases splitTileset_cases s.imgW s.imgH with ⟨-, e⟩ | ⟨-, -, -, e⟩ | ⟨w4, h8, le, e⟩ <;> rw [e] at ht <;> subst ht
  · exact inv_raise h (by decide) (by decide) hp (fun _ => rfl) (Nat.two_pow_pos _)
  · exact inv_raise h (by decide) (by decide) hp (fun _ => rfl) (Nat.two_pow_pos _)
  · have pos : 1 ≤ s.imgW / 4 * (s.imgH / 8) := Nat.mul_pos (by omega) (by omega)
    exact inv_of_position h hb same hb rfl h.fg
      (.inr ⟨hm, range, ⟨w4, h8, rfl, rfl, pos, le⟩, pos, by simp [storeSplit, cleared.pixStage],
        by simp [storeSplit, cleared.attrStage]⟩)

/-! ### The resolvers -/

/-- A resolved sprite table holds every colour of the image (R151 (a)). -/
theorem covers_of_resolveSprite {s : State} {t : List Idx}
    (h : resolveSprite (imageColours s) (tcOperand s) (scOperand s) = .ok t) :
    ∀ p ∈ blockPixels (pixRead s) (imageBlock s.imgW s.imgH), p ∈ (ColorTable.ofList t).toList := by
  intro p hp
  obtain ⟨hl, perm⟩ := resolveSprite_perm h
  rw [toList_ofList (perm.length_eq.trans (padSeen_length hl)), perm.mem_iff]
  exact List.mem_append_left _ (mem_distinct.2 hp)

theorem inv_execResolveS {s t : State} (h : Inv s) (hb : s.life = .busy) (hm : s.mode = .sprite)
    (hp : s.phase = .resolve) (ht : execResolveS s = .next t) : Inv t := by
  have same : SameInputs s t := exec_sameInputs (i := .resolveS) ht
  obtain ⟨noAttr, fg, position⟩ := (h.busy hb).sprite hm
  simp only [hp] at position
  obtain ⟨grid, -, noPix⟩ := position
  rcases execResolveS_cases s with ⟨k, hk, e⟩ | ⟨u, hu, e⟩ <;> rw [e] at ht <;> cases ht
  · rcases resolveSprite_error hk with rfl | rfl
    · exact inv_raise h (by decide) (by decide) hp (fun _ => rfl) (Nat.two_pow_pos _)
    · exact inv_raise h (by decide) (by decide) hp (fun _ => rfl) (Nat.two_pow_pos _)
  · exact inv_of_position h hb same hb rfl h.fg
      (.inl ⟨hm, noAttr, fg, grid, grid.2.2.2, by simp [noPix], covers_of_resolveSprite hu⟩)

/-- RESOLVE.T's kinds. -/
theorem resolveTile_error {ns : List Idx} {k : FailKind} (h : resolveTile ns = .error k) :
    k = .ambiguousForeground ∨ k = .foregroundOutOfRange := by
  rcases resolveTile_cases ns with ⟨-, e⟩ | ⟨-, -, e⟩ | ⟨-, -, e⟩ <;> rw [e] at h <;> cases h
  · exact .inl rfl
  · exact .inr rfl

theorem inv_execResolveT {s t : State} (h : Inv s) (hb : s.life = .busy) (hm : s.mode = .tileset)
    (hp : s.phase = .resolve) (ht : execResolveT s = .next t) : Inv t := by
  have same : SameInputs s t := exec_sameInputs (i := .resolveT) ht
  obtain ⟨range, position⟩ := (h.busy hb).tileset hm
  simp only [hp] at position
  obtain ⟨grid, hk, pixLength, attrLength⟩ := position
  have ⟨_, _, _, _, _, le⟩ := grid
  have fits : s.blk < 2 ^ s.cfg.dimBits := by have := h.le_two_pow; omega
  obtain ⟨tset, ns, -, mem, rfl, ⟨k, hr, e⟩ | ⟨fg, hr, e⟩⟩ := execResolveT_cases s <;> rw [e] at ht <;> cases ht
  · rcases resolveTile_error hr with rfl | rfl
    · exact inv_raise h (by decide) (by decide) hp nofun fits
    · exact inv_raise h (by decide) (by decide) hp nofun fits
  · have covers := fun p hp => resolveTile_covers hr ((mem p).2 hp)
    exact inv_of_position h hb same hb rfl (resolveTile_ok hr).2.2
      (.inr ⟨hm, range, grid, hk, pixLength, attrLength, rfl, covers⟩)

/-! ### The packer -/

/-- A frame's pixels are pixels of the image (R121). -/
theorem mem_image_of_mem_blockS {read : Nat → Nat → Idx} {w h k n : Nat} {p : Idx} (hw : w = 12 * n) (hk : k < n)
    (hp : p ∈ blockPixels read (blockS h k)) : p ∈ blockPixels read (imageBlock w h) := by
  obtain ⟨x, y, h1, h2, h3, h4, e⟩ := mem_blockPixels.1 hp
  simp only [blockS] at h1 h2 h3 h4
  exact mem_blockPixels.2 ⟨x, y, by simp [imageBlock], by simp only [imageBlock]; omega, by simp [imageBlock],
    by simp only [imageBlock]; omega, e⟩

/-- Blocks are whole groups wide (R121, R123). -/
theorem blockOf_width (m : Mode) (w h k : Nat) : (blockOf m w h k).w % 4 = 0 := by
  cases m <;> simp [blockOf, blockS, blockT]

/-- PACK of a block whose pixels are all in CT does not fail. -/
theorem execPack_of_covers {m : Mode} {s : State} (h : Covers s (blockOf m s.imgW s.imgH s.blk)) :
    ∃ bytes, packBlock (pixRead s) s.ct (blockOf m s.imgW s.imgH s.blk) = some bytes ∧
      execPack m s = .next (afterPack m (appendPix s bytes)) := by
  rcases execPack_cases m s with ⟨hn, -⟩ | hs
  · obtain ⟨p, hp, hc⟩ := (packBlock_eq_none (blockOf_width m _ _ _)).1 hn
    exact absurd (h p hp) hc
  · exact hs

theorem inv_execPackS {s t : State} (h : Inv s) (hb : s.life = .busy) (hm : s.mode = .sprite) (hp : s.phase = .pack)
    (ht : execPack .sprite s = .next t) : Inv t := by
  have same : SameInputs s t := exec_sameInputs (i := .pack .sprite) ht
  obtain ⟨noAttr, fg, position⟩ := (h.busy hb).sprite hm
  simp only [hp] at position
  obtain ⟨grid, hk, pixLength, covers⟩ := position
  have ⟨hw, _, bpb, _⟩ := grid
  obtain ⟨bytes, hpack, e⟩ := execPack_of_covers (m := .sprite) fun p hp =>
    covers p (mem_image_of_mem_blockS hw hk hp)
  have pixLength' : (s.pixStage ++ bytes).length = (s.blk + 1) * s.bpb := by
    have := packBlock_length hpack
    simp only [blockOf, blockS] at this
    rw [List.length_append, pixLength, this, Nat.succ_mul s.blk]
    omega
  rw [e] at ht
  cases ht
  rcases afterPack_cases .sprite (appendPix s bytes) with ⟨-, lt, e⟩ | ⟨-, le, e⟩ | ⟨hc, -⟩
  · rw [e] at same ⊢
    exact inv_of_position h hb same hb rfl h.fg (.inl ⟨hm, noAttr, fg, grid, lt, pixLength', covers⟩)
  · rw [e] at same ⊢
    have last : s.blk + 1 = s.nblk := Nat.le_antisymm hk le
    rw [last] at pixLength'
    exact inv_of_position h hb same hb rfl h.fg (.inl ⟨hm, noAttr, fg, grid, rfl, pixLength'⟩)
  · cases hc

theorem inv_execPackT {s t : State} (h : Inv s) (hb : s.life = .busy) (hm : s.mode = .tileset) (hp : s.phase = .pack)
    (ht : execPack .tileset s = .next t) : Inv t := by
  have same : SameInputs s t := exec_sameInputs (i := .pack .tileset) ht
  obtain ⟨range, position⟩ := (h.busy hb).tileset hm
  simp only [hp] at position
  obtain ⟨grid, hk, pixLength, attrLength, -, covers⟩ := position
  have ⟨_, _, _, bpb, _⟩ := grid
  obtain ⟨bytes, hpack, e⟩ := execPack_of_covers (m := .tileset) covers
  have pixLength' : (s.pixStage ++ bytes).length = (s.blk + 1) * s.bpb := by
    have := packBlock_length hpack
    simp only [blockOf, blockT] at this
    rw [List.length_append, pixLength, this, Nat.succ_mul s.blk]
    omega
  rw [e] at ht
  cases ht
  exact inv_of_position h hb same hb rfl h.fg (.inr ⟨hm, range, grid, hk, pixLength', attrLength⟩)

/-! ### The deriver -/

/-- The byte that ATTR stages is in 8..15 when FG is 0..7 (R186). -/
theorem AttrRange.snoc {l : List Byte} {fg : Idx} (h : AttrRange l) (hf : fg.toNat ≤ 7) :
    AttrRange (l ++ [attrByte fg]) := by
  intro a ha
  rcases List.mem_append.1 ha with ha | ha
  · exact h a ha
  · obtain rfl := List.mem_singleton.1 ha
    simp only [attrByte, BitVec.toNat_add, BitVec.toNat_ofNat]
    omega

theorem inv_execAttr {s t : State} (h : Inv s) (hb : s.life = .busy) (hm : s.mode = .tileset) (hp : s.phase = .attr)
    (ht : execAttr s = .next t) : Inv t := by
  have same : SameInputs s t := exec_sameInputs (i := .attr) ht
  obtain ⟨range, position⟩ := (h.busy hb).tileset hm
  simp only [hp] at position
  obtain ⟨grid, hk, pixLength, attrLength⟩ := position
  have range' := range.snoc h.fg
  have attrLength' : (s.attrStage ++ [attrByte s.fg]).length = s.blk + 1 := by simp [attrLength]
  simp only [execAttr, Host.Outcome.next.injEq] at ht
  subst ht
  rcases afterAttr_cases (appendAttr s (attrByte s.fg)) with ⟨lt, e⟩ | ⟨le, e⟩ <;> rw [e] at same ⊢
  · exact inv_of_position h hb same hb rfl h.fg (.inr ⟨hm, range', grid, lt, pixLength, attrLength'⟩)
  · have last : s.blk + 1 = s.nblk := Nat.le_antisymm hk le
    rw [last] at pixLength attrLength'
    exact inv_of_position h hb same hb rfl h.fg (.inr ⟨hm, range', grid, rfl, pixLength, attrLength'⟩)

/-! ### The output -/

/-- The invariant after the commit of a finished sequence. -/
theorem inv_commit {s : State} {l : List Byte} (h : Inv s) (hb : s.life = .busy)
    (pixLength : s.pixStage.length = s.nblk * s.bpb) (count : l.length = 0 ∨ (l.length = s.nblk ∧ s.nblk ≤ 256))
    (range : AttrRange l) (nblkPos : 1 ≤ s.nblk) (nblkFits : s.nblk < 2 ^ s.cfg.dimBits)
    (bpbFits : s.bpb < 2 ^ (s.cfg.dimBits + 2)) (productFits : s.nblk * s.bpb < 2 ^ (2 * s.cfg.dimBits)) :
    Inv (commit l s) where
  dimBits := h.dimBits
  imgW := h.imgW
  imgH := h.imgH
  pix := h.pix
  fg := h.fg
  life := {
    phase := rfl
    blk := rfl
    err := (h.busy hb).err
    errIdx := (h.busy hb).errIdx
    pixLen := rfl
    attrLen := rfl
    product := pixLength
    count := count
    nblkPos := nblkPos
    nblkFits := nblkFits
    bpbFits := bpbFits
    pixLenFits := by rw [commit_pixLen, pixLength]; exact productFits
    attrRange := range }

theorem inv_execEmitS {s t : State} (h : Inv s) (hb : s.life = .busy) (hm : s.mode = .sprite) (hp : s.phase = .emit)
    (ht : execEmitS s = .next t) : Inv t := by
  obtain ⟨-, -, position⟩ := (h.busy hb).sprite hm
  simp only [hp] at position
  obtain ⟨⟨hw, -, bpb, nblkPos⟩, -, pixLength⟩ := position
  have w := h.imgW
  have ht' := h.imgH
  have productFits : s.nblk * s.bpb < 2 ^ (2 * s.cfg.dimBits) :=
    calc s.nblk * s.bpb = 3 * s.nblk * s.imgH := by rw [bpb]; ring
      _ ≤ s.imgW * s.imgH := Nat.mul_le_mul_right _ (by omega)
      _ < 2 ^ s.cfg.dimBits * 2 ^ s.cfg.dimBits := Nat.mul_lt_mul'' w ht'
      _ = 2 ^ (2 * s.cfg.dimBits) := by ring
  simp only [execEmitS, Host.Outcome.next.injEq] at ht
  subst ht
  exact inv_commit h hb pixLength (.inl rfl) (by simp [AttrRange]) nblkPos (by omega)
    (by rw [Nat.pow_add]; omega) productFits

theorem inv_execEmitT {s t : State} (h : Inv s) (hb : s.life = .busy) (hm : s.mode = .tileset) (hp : s.phase = .emit)
    (ht : execEmitT s = .next t) : Inv t := by
  obtain ⟨range, position⟩ := (h.busy hb).tileset hm
  simp only [hp] at position
  obtain ⟨⟨-, -, -, bpb, nblkPos, le⟩, -, pixLength, attrLength⟩ := position
  have big := h.le_two_pow
  have productFits : s.nblk * s.bpb < 2 ^ (2 * s.cfg.dimBits) :=
    calc s.nblk * s.bpb < 512 * 512 := by rw [bpb]; omega
      _ ≤ 2 ^ s.cfg.dimBits * 2 ^ s.cfg.dimBits := Nat.mul_le_mul big big
      _ = 2 ^ (2 * s.cfg.dimBits) := by ring
  have commits : ∀ l, (l = s.attrStage ∨ l = []) → Inv (commit l s) := by
    intro l hl
    have range' : AttrRange l := by
      rcases hl with rfl | rfl
      · exact range
      · simp [AttrRange]
    have count : l.length = 0 ∨ (l.length = s.nblk ∧ s.nblk ≤ 256) := by
      rcases hl with rfl | rfl
      · exact .inr ⟨attrLength, le⟩
      · exact .inl rfl
    exact inv_commit h hb pixLength count range' nblkPos (by omega) (by rw [Nat.pow_add]; omega) productFits
  simp only [execEmitT, Host.Outcome.next.injEq] at ht
  subst ht
  split
  · exact commits _ (.inl rfl)
  · exact commits _ (.inr rfl)

/-! ### The step -/

/-- The operation of a BUSY block keeps the invariant. -/
theorem inv_operation {s t : State} {i : Instr} (h : Inv s) (hb : s.life = .busy) (hi : AtPosition s i)
    (ht : exec i s = .next t) : Inv t := by
  cases hi with
  | splitS hm hp => exact inv_execSplitS h hb hm hp ht
  | splitT hm hp => exact inv_execSplitT h hb hm hp ht
  | resolveS hm hp => exact inv_execResolveS h hb hm hp ht
  | resolveT hm hp => exact inv_execResolveT h hb hm hp ht
  | packS hm hp => exact inv_execPackS h hb hm hp ht
  | packT hm hp => exact inv_execPackT h hb hm hp ht
  | attr hm hp => exact inv_execAttr h hb hm hp ht
  | emitS hm hp => exact inv_execEmitS h hb hm hp ht
  | emitT hm hp => exact inv_execEmitT h hb hm hp ht

theorem Turn.keeps_inv {s t : State} {a : HostAction} (turn : Turn s a t) (h : Inv s) : Inv t := by
  cases turn with
  | ignored => exact h
  | read => exact h.visited _ _
  | reset => exact inv_resetBlock h
  | pix x y v idle => exact inv_pixWrite h idle x y v
  | register n v idle => exact inv_writeReg h idle n v
  | conv v idle code legal => exact inv_startConversion h (convRefusal_eq_none.1 legal)
  | clr v idle code => exact inv_releaseResults h
  | operation busy selected runs => exact inv_operation h busy (atPosition_of_selected selected) runs

/-- Settles O41: a step is one turn, and every kind of turn keeps the invariant. -/
theorem everyStepKeepsTheInvariant : Obligations.EveryStepKeepsTheInvariant := by
  intro s t h ht
  obtain ⟨a, q, -, turn⟩ := step_turn ht
  exact turn.keeps_inv (h.visited q s.busRead)

end Sys2Proof.Machine
end

section
/-! PROOFS. The register file as the host reads and writes it (spec/10_state.md R29 to R43). -/

namespace Sys2Proof.Machine

/-! ### The table -/

theorem regAccess_eq_w {n : Nat} : regAccess n = .w ↔ n = 0 := by
  unfold regAccess; split_ifs <;> simp <;> omega

theorem regAccess_eq_r {n : Nat} : regAccess n = .r ↔ (1 ≤ n ∧ n ≤ 3) ∨ (12 ≤ n ∧ n ≤ 20) := by
  unfold regAccess; split_ifs <;> simp <;> omega

theorem regAccess_eq_rw {n : Nat} : regAccess n = .rw ↔ 4 ≤ n ∧ n ≤ 11 := by
  unfold regAccess; split_ifs <;> simp <;> omega

theorem regAccess_eq_absent {n : Nat} : regAccess n = .absent ↔ 21 ≤ n := by
  unfold regAccess; split_ifs <;> simp <;> omega

/-! ### Reads -/

@[simp] theorem hideWhileBusy_of_busy {s : State} (h : s.life = .busy) (v : Nat) : hideWhileBusy s v = 0 := if_pos h

@[simp] theorem hideWhileBusy_of_not_busy {s : State} (h : s.life ≠ .busy) (v : Nat) : hideWhileBusy s v = v := if_neg h

theorem hideWhileBusy_lt {s : State} {v w : Nat} (h : s.life ≠ .busy → v < 2 ^ w) : hideWhileBusy s v < 2 ^ w := by
  unfold hideWhileBusy
  split
  · exact Nat.two_pow_pos w
  · next hl => exact h hl

/-- The numbers that do not exist read 0 (R43). -/
theorem readReg_absent (s : State) {n : Nat} (h : 21 ≤ n) : readReg s n = 0 := by
  obtain ⟨m, rfl⟩ := Nat.exists_eq_add_of_le' h
  rfl

/-- STATUS in numbers (R31). -/
theorem statusByte_toNat (s : State) : (statusByte s).toNat = s.life.code.toNat + 4 * s.phase.code.toNat := by
  unfold statusByte
  cases s.life <;> cases s.phase <;> rfl

/-- CTRL in numbers (R34). -/
theorem ctrlByte_toNat (s : State) : (ctrlByte s).toNat = s.ctrl.toNat := by
  have h : ∀ c : BitVec 4, (0#4 ++ c).toNat = c.toNat := by decide
  exact h s.ctrl

/-! ### Writes -/

/-- While BUSY every register ignores a write (R42). -/
theorem writeReg_of_busy {s : State} (h : s.life = .busy) (n v : Nat) : writeReg n v s = s := by
  unfold writeReg; exact if_pos h

/-- A register that is not RW ignores a write (R29, R43). -/
theorem writeReg_of_not_rw {n : Nat} (h : regAccess n ≠ .rw) (v : Nat) (s : State) : writeReg n v s = s := by
  rw [ne_eq, regAccess_eq_rw] at h
  unfold writeReg
  split
  · rfl
  · split
    case h_9 => rfl
    all_goals omega

theorem readReg_writeReg_same {s : State} {n : Nat} (h : regAccess n = .rw) (hl : s.life ≠ .busy) (v : Nat) :
    readReg (writeReg n v s) n = v % 2 ^ (if n = 4 then 4 else regWidth s.cfg n) := by
  obtain ⟨lo, hi⟩ := regAccess_eq_rw.1 h
  unfold writeReg
  rw [if_neg hl]
  interval_cases n <;> simp [readReg, ctrlByte_toNat, regWidth]

theorem readReg_writeReg_other {n k : Nat} (h : k ≠ n) (v : Nat) (s : State) :
    readReg (writeReg n v s) k = readReg s k := by
  by_cases hn : regAccess n = .rw
  · obtain ⟨lo, hi⟩ := regAccess_eq_rw.1 hn
    by_cases hk : 21 ≤ k
    · rw [readReg_absent _ hk, readReg_absent _ hk]
    · unfold writeReg
      split
      · rfl
      · -- Two registers: the same one, which `h` excludes, or two fields of the record.
        interval_cases n <;> interval_cases k <;> trivial
  · rw [writeReg_of_not_rw hn]

theorem hostTurn_wr_register {n : Nat} (h : n ≠ 0) (v : Nat) (s : State) :
    hostTurn (.wr n v) s = .next (writeReg n v s) := if_neg h

/-- While BUSY a write is ignored, to CMD as to every register (R42). -/
theorem hostTurn_wr_of_busy {s : State} (h : s.life = .busy) (n v : Nat) : hostTurn (.wr n v) s = .next s := by
  by_cases hn : n = 0
  · subst hn
    show commandWrite v s = .next s
    unfold commandWrite
    exact if_pos h
  · rw [hostTurn_wr_register hn, writeReg_of_busy h]

/-! ### The statements -/

/-- Settles O10: `writeReg` changes nothing else by its equation, and is cut by the read-back of the register it writes. -/
theorem registerWriteIsTruncatedAndLocal : Obligations.RegisterWriteIsTruncatedAndLocal := by
  intro s q n v hq hn hl
  refine ⟨writeReg n v { s with host := q }, (step_eq_hostTurn hq).trans (hostTurn_wr_register hn v _),
    fun rw => readReg_writeReg_same (s := { s with host := q }) rw hl v, ?_, fun h => writeReg_of_not_rw h v _, ?_⟩
  · intro k hk
    by_cases e : k = n
    · rw [writeReg_of_not_rw (hk.resolve_left (not_not_intro e))]
      rfl
    · rw [readReg_writeReg_other e]
      rfl
  · obtain ⟨ctrl, tc, sc, sh0, sh1, sh2, w, ht, e, -, -⟩ := writeReg_eq n v { s with host := q }
    rw [e]
    exact ⟨rfl, rfl, rfl, rfl, rfl, rfl, rfl, rfl, rfl, rfl, rfl, rfl, rfl, rfl, rfl⟩

/-- A result register reads 0 while BUSY (R42). -/
theorem readReg_of_busy {s : State} (h : s.life = .busy) {n : Nat} (hr : regAccess n = .r) (h1 : n ≠ 1) :
    readReg s n = 0 := by
  rcases regAccess_eq_r.1 hr with ⟨lo, hi⟩ | ⟨lo, hi⟩ <;> interval_cases n
  · exact absurd rfl h1
  all_goals exact hideWhileBusy_of_busy h _

/-- Settles O11: while BUSY the writes are ignored, so the only turns are reads, reset and operations, and an operation
leaves the inputs alone. -/
theorem busyLocksTheRegisters : Obligations.BusyLocksTheRegisters := by
  intro s hb
  refine ⟨fun q n v hq => (step_eq_hostTurn hq).trans (hostTurn_wr_of_busy (s := { s with host := q }) hb n v),
    fun n => readReg_of_busy hb, ?_, ?_⟩
  · have status := statusByte_toNat s
    rw [hb] at status
    exact status
  · intro t ht noReset
    obtain ⟨a, q, hq, turn⟩ := step_turn ht
    cases turn with
    | ignored | read => exact ⟨rfl, rfl, rfl, rfl, rfl, rfl, rfl, rfl⟩
    | reset => rcases hq with hq | ⟨-, hq⟩ <;> simp_all
    | pix _ _ _ idle | register _ _ idle | conv _ idle | clr _ idle => exact absurd hb idle
    | operation busy selected runs =>
      have same := exec_sameInputs runs
      exact ⟨same.ctrl, same.tc, same.sc, same.sh0, same.sh1, same.sh2, same.imgW, same.imgH⟩

/-- The result registers' values fit their widths (R33, R38 to R41). -/
structure ResultsFit (s : State) : Prop where
  errIdx : s.errIdx < 2 ^ s.cfg.dimBits
  nblk : s.nblk < 2 ^ s.cfg.dimBits
  bpb : s.bpb < 2 ^ (s.cfg.dimBits + 2)
  attrLen : s.attrLen < 2 ^ 9
  pixLen : s.pixLen < 2 ^ (2 * s.cfg.dimBits)

theorem Cleared.resultsFit {s : State} (h : Cleared s) (errIdx : s.errIdx < 2 ^ s.cfg.dimBits) : ResultsFit s where
  errIdx := errIdx
  nblk := by rw [h.nblk]; exact Nat.two_pow_pos _
  bpb := by rw [h.bpb]; exact Nat.two_pow_pos _
  attrLen := by rw [h.attrLen]; exact Nat.two_pow_pos _
  pixLen := by rw [h.pixLen]; exact Nat.two_pow_pos _

/-- Outside a conversion the results are cleared, or they are those of a finished one. -/
theorem Inv.resultsFit {s : State} (h : Inv s) (hl : s.life ≠ .busy) : ResultsFit s := by
  cases life : s.life with
  | idle => exact (h.idle life).cleared.resultsFit (by rw [(h.idle life).errIdx]; exact Nat.two_pow_pos _)
  | busy => exact absurd life hl
  | done =>
    have d := h.done life
    have attrLen : s.attrLen < 2 ^ 9 := by have := d.count; omega
    exact ⟨by rw [d.errIdx]; exact Nat.two_pow_pos _, d.nblkFits, d.bpbFits, attrLen, d.pixLenFits⟩
  | failed => exact (h.failed life).cleared.resultsFit (h.failed life).errIdxFits

/-- Settles O43: the bit-vector registers fit by their type, the dimensions by the invariant, the results because they
read 0 while BUSY and fit outside it. -/
theorem registersFitTheirWidths : Obligations.RegistersFitTheirWidths := by
  intro s n h hn
  have byte (b : BitVec 8) : hideWhileBusy s b.toNat < 2 ^ 8 := hideWhileBusy_lt fun _ => b.isLt
  match n, hn with
  | 0, _ => exact Nat.two_pow_pos 8
  | 3, _ => exact hideWhileBusy_lt fun hl => (h.resultsFit hl).errIdx
  | 5, _ => exact s.tc.isLt
  | 6, _ => exact s.sc.isLt
  | 10, _ => exact h.imgW
  | 11, _ => exact h.imgH
  | 12, _ => exact hideWhileBusy_lt fun hl => (h.resultsFit hl).nblk
  | 13, _ => exact hideWhileBusy_lt fun hl => (h.resultsFit hl).bpb
  | 19, _ => exact hideWhileBusy_lt fun hl => (h.resultsFit hl).attrLen
  | 20, _ => exact hideWhileBusy_lt fun hl => (h.resultsFit hl).pixLen
  | 1, _ | 4, _ | 7, _ | 8, _ | 9, _ => exact BitVec.isLt _
  | 2, _ | 14, _ | 15, _ | 16, _ | 17, _ | 18, _ => exact byte _
  | m + 21, hm => omega

/-- Settles O8: every register of the reset state is 0, by number. -/
theorem resetStateIsAllZero : Obligations.ResetStateIsAllZero := by
  refine ⟨fun n => ?_, rfl, rfl, rfl, ⟨rfl, rfl, rfl, rfl, rfl, rfl, rfl, rfl, rfl, rfl, rfl, rfl, rfl⟩, rfl⟩
  by_cases hn : 21 ≤ n
  · exact readReg_absent _ hn
  · interval_cases n <;> rfl

/-- Settles O12: STATUS is STATE and four times PHASE, and ERR is read as the kind's code. -/
theorem statusAndErrFields : Obligations.StatusAndErrFields := by
  intro s
  have status : readReg s 1 = s.life.code.toNat + 4 * s.phase.code.toNat := statusByte_toNat s
  have state : s.life.code.toNat < 4 := s.life.code.isLt
  have phase : s.phase.code.toNat < 8 := s.phase.code.isLt
  refine ⟨?_, ?_, by omega, fun hl => ?_⟩
  · have e : readReg s 1 % 4 = s.life.code.toNat := by omega
    rw [e]
    cases s.life <;> rfl
  · have e : readReg s 1 / 4 % 8 = s.phase.code.toNat := by omega
    rw [e]
    cases s.phase <;> rfl
  · have e : readReg s 2 = (errByte s).toNat := hideWhileBusy_of_not_busy hl _
    rw [e]
    unfold errByte
    cases s.err with
    | none => rfl
    | some k => cases k <;> rfl

/-- Settles O13: CMD and the absent registers read 0 by the table, and a read's turn writes the bus only. -/
theorem registerReadHasNoSideEffect : Obligations.RegisterReadHasNoSideEffect := by
  refine ⟨?_, fun s q n hq => step_eq_hostTurn hq⟩
  rintro s n (rfl | hn)
  · rfl
  · exact readReg_absent s hn

/-- A bit of CTRL in the number the host reads (R34). -/
theorem ctrl_bit_iff (c : BitVec 4) (i : Nat) : c.getLsbD i = true ↔ c.toNat / 2 ^ i % 2 = 1 := by
  rw [BitVec.getLsbD, Nat.testBit_eq_decide_div_mod_eq, decide_eq_true_iff]

/-- A constraint is its 4-bit register zero-extended, when it is enabled (R94 (a)). -/
theorem constraint_toNat {enabled : Bool} {p : Prop} [Decidable p] (h : enabled = true ↔ p) (c : Nibble) :
    (if enabled then some (c.zeroExtend 8) else none : Option Idx).map BitVec.toNat =
      if p then some c.toNat else none := by
  have extend : (c.zeroExtend 8).toNat = c.toNat := BitVec.toNat_setWidth_of_le (by decide)
  by_cases hp : p
  · rw [if_pos (h.2 hp), if_pos hp, Option.map_some, extend]
  · rw [if_neg (mt h.1 hp), if_neg hp, Option.map_none]

/-- Settles O51: each field of CTRL is the bit of its position in the number that register 4 reads. -/
theorem ctrlFieldsByBit : Obligations.CtrlFieldsByBit := by
  intro s
  have ctrl : readReg s 4 = s.ctrl.toNat := ctrlByte_toNat s
  have lt : s.ctrl.toNat < 16 := s.ctrl.isLt
  have bit0 : s.ctrl.getLsbD 0 = true ↔ s.ctrl.toNat % 2 = 1 := by simpa using ctrl_bit_iff s.ctrl 0
  have mode : s.mode = .tileset ↔ s.ctrl.getLsbD 0 = true := by unfold State.mode; split <;> simp_all
  have tcEn : s.tcEn = true ↔ s.ctrl.toNat / 4 % 2 = 1 := ctrl_bit_iff s.ctrl 2
  have scEn : s.scEn = true ↔ s.ctrl.toNat / 8 % 2 = 1 := ctrl_bit_iff s.ctrl 3
  rw [ctrl]
  exact ⟨mode.trans bit0, ctrl_bit_iff s.ctrl 1, tcEn, scEn, by omega, constraint_toNat tcEn s.tc,
    constraint_toNat scEn s.sc⟩

/-- Settles O52: the access classes by their ranges, the widths and contents row by row. -/
theorem registerFileTable : Obligations.RegisterFileTable := by
  refine ⟨fun n => ⟨regAccess_eq_w, regAccess_eq_r, regAccess_eq_rw, regAccess_eq_absent⟩, fun c => rfl, fun s hl => ?_⟩
  simp [readReg, ctrlByte_toNat, hideWhileBusy_of_not_busy hl]

end Sys2Proof.Machine
end

section
/-! PROOFS. PIX and the output memories, STATE, the commands, and what a conversion may depend on (spec/10_state.md R23
to R27, R47 to R53). -/

namespace Sys2Proof.Machine

/-! ### PIX and the output memories -/

theorem pixRead_pixWrite_same {s : State} {x y : Nat} (hx : x < 2 ^ s.cfg.dimBits) (hy : y < 2 ^ s.cfg.dimBits)
    (v : Idx) : pixRead (pixWrite s x y v) x y = v := by
  unfold pixWrite
  rw [if_pos ⟨hx, hy⟩]
  simp [pixRead]

/-- A cell that no image can have ignores a write (U7). -/
theorem pixWrite_outside {s : State} {x y : Nat} (h : 2 ^ s.cfg.dimBits ≤ x ∨ 2 ^ s.cfg.dimBits ≤ y) (v : Idx) :
    pixWrite s x y v = s := by
  unfold pixWrite
  exact if_neg (by omega)

/-- Settles O15: the write is one write of the cell list, whose laws are in Laws/Memory. -/
theorem pixWriteReadsBack : Obligations.PixWriteReadsBack := by
  intro s q x y v hq hl
  have turn : hostTurn (.pix x y v) { s with host := q } = .next (pixWrite { s with host := q } x y v) := if_neg hl
  exact ⟨pixWrite { s with host := q } x y v, (step_eq_hostTurn hq).trans turn,
    fun hx hy => pixRead_pixWrite_same (s := { s with host := q }) hx hy v,
    fun x' y' h => pixRead_pixWrite_other h,
    fun h => pixWrite_outside (s := { s with host := q }) h v,
    fun wf => pixWrite_wf (s := { s with host := q }) wf,
    pixWrite_eq { s with host := q } x y v⟩

/-- Settles O17: of the turns that are neither a PIX write nor reset, an operation leaves the inputs alone and the
others do not touch PIX. -/
theorem onlyTheHostChangesPix : Obligations.OnlyTheHostChangesPix := by
  intro s t ht noPix noReset
  obtain ⟨a, q, hq, turn⟩ := step_turn ht
  have same : t.pix = s.pix ∧ t.pixEpoch = s.pixEpoch := by
    cases turn with
    | ignored | read | conv | clr => exact ⟨rfl, rfl⟩
    | reset => exact (noReset q (hq.resolve_right nofun)).elim
    | pix x y v => exact (noPix x y v q (hq.resolve_right nofun)).elim
    | register n v =>
      obtain ⟨_, _, _, _, _, _, _, _, e, -⟩ := writeReg_eq n v { s with host := q }
      rw [e]
      exact ⟨rfl, rfl⟩
    | operation busy selected runs => exact ⟨(exec_sameInputs runs).pix, (exec_sameInputs runs).pixEpoch⟩
  exact ⟨same.1, congrFun₂ (pixRead_congr same.1 same.2)⟩

theorem outputRead_of_some {mem : List Byte} {i : Nat} {v : Byte} (h : mem[i]? = some v) (s : State) :
    outputRead mem i s = .next { s with busRead := some v.toNat } := by
  unfold outputRead
  rw [h]

theorem outputRead_past_end {mem : List Byte} {i : Nat} (h : mem.length ≤ i) (s : State) :
    outputRead mem i s = .refused .readPastEnd := by
  unfold outputRead
  rw [List.getElem?_eq_none h]

/-- Settles O14: each read's turn is `outputRead` of its memory. -/
theorem outputReadsReturnTheElement : Obligations.OutputReadsReturnTheElement := fun _ _ _ =>
  ⟨fun _ hq hv => (step_eq_hostTurn hq).trans (outputRead_of_some hv _),
    fun _ hq hv => (step_eq_hostTurn hq).trans (outputRead_of_some hv _),
    fun hq he => (step_eq_hostTurn hq).trans (outputRead_past_end he _),
    fun hq he => (step_eq_hostTurn hq).trans (outputRead_past_end he _)⟩

/-! ### STATE -/

/-- What an operation can do to STATE: nothing, or it ends the conversion in DONE at EMIT, or it fails. -/
def GoesOnOrEnds (s t : State) : Prop :=
  t.life = s.life ∨ (t.life = .done ∧ s.phase = .emit) ∨ (t.life = .failed ∧ t.err ≠ none)

/-- The operation of every position goes on or ends the conversion. -/
theorem goesOnOrEnds_of_operation {s t : State} {i : Instr} (hi : AtPosition s i) (ht : exec i s = .next t) :
    GoesOnOrEnds s t := by
  have failed (k : FailKind) (j : Nat) : (raise k j s).life = .failed ∧ (raise k j s).err ≠ none := ⟨rfl, nofun⟩
  have split (r : Except FailKind (Nat × Nat)) (e : t = storeSplit r s) : GoesOnOrEnds s t := by
    rcases storeSplit_cases r s with ⟨k, -, h⟩ | ⟨n, b, -, h⟩ <;> rw [e, h]
    · exact .inr (.inr (failed k 0))
    · exact .inl rfl
  have pack (m : Mode) (e : execPack m s = .next t) : GoesOnOrEnds s t := by
    rcases execPack_cases m s with ⟨-, h⟩ | ⟨bytes, -, h⟩ <;> rw [h] at e <;> cases e
    · exact .inr (.inr (failed _ _))
    · rcases afterPack_cases m (appendPix s bytes) with ⟨-, -, h⟩ | ⟨-, -, h⟩ | ⟨-, h⟩ <;> rw [h] <;> exact .inl rfl
  cases hi with
  | splitS => exact split _ (Host.Outcome.next.inj ht).symm
  | splitT => exact split _ (Host.Outcome.next.inj ht).symm
  | resolveS =>
    rcases execResolveS_cases s with ⟨k, -, h⟩ | ⟨u, -, h⟩ <;> cases h.symm.trans ht
    · exact .inr (.inr (failed _ _))
    · exact .inl rfl
  | resolveT =>
    obtain ⟨tset, ns, -, -, -, ⟨k, -, h⟩ | ⟨fg, -, h⟩⟩ := execResolveT_cases s <;> cases h.symm.trans ht
    · exact .inr (.inr (failed _ _))
    · exact .inl rfl
  | packS => exact pack _ ht
  | packT => exact pack _ ht
  | attr =>
    cases ht
    rcases afterAttr_cases (appendAttr s (attrByte s.fg)) with ⟨-, h⟩ | ⟨-, h⟩ <;> rw [h] <;> exact .inl rfl
  | emitS _ phase => cases ht; exact .inr (.inl ⟨rfl, phase⟩)
  | emitT _ phase => cases ht; exact .inr (.inl ⟨rfl, phase⟩)

/-- Settles O38: only reset, the two commands and an operation set STATE, each to its own value. -/
theorem stateIsSetOnlyByItsCauses : Obligations.StateIsSetOnlyByItsCauses := by
  intro s t ht changed
  obtain ⟨a, q, hq, turn⟩ := step_turn ht
  cases turn with
  | ignored | read => exact absurd rfl changed
  | reset => exact ⟨nofun, nofun, nofun, fun _ => .inr ⟨q, hq.resolve_right nofun⟩⟩
  | pix x y v => exact absurd (pixWrite_life _ _ _ _) changed
  | register n v =>
    obtain ⟨_, _, _, _, _, _, _, _, e, -⟩ := writeReg_eq n v { s with host := q }
    exact absurd (congrArg State.life e) changed
  | conv v _ code => exact ⟨fun _ => ⟨v, q, hq.resolve_right nofun, code⟩, nofun, nofun, nofun⟩
  | clr v _ code => exact ⟨nofun, nofun, nofun, fun _ => .inl ⟨v, q, hq.resolve_right nofun, code⟩⟩
  | operation busy selected runs =>
    rcases goesOnOrEnds_of_operation (atPosition_of_selected selected) runs with same | ⟨done, emit⟩ | ⟨failed, err⟩
    · exact absurd same changed
    · exact ⟨by simp [done], fun _ => ⟨busy, emit⟩, by simp [done], by simp [done]⟩
    · exact ⟨by simp [failed], by simp [failed], fun _ => ⟨busy, err⟩, by simp [failed]⟩

/-- The selector in numbers (R100). -/
theorem selector_toNat (s : State) :
    (selector s).toNat = (if s.mode = .tileset then 8 else 0) + s.phase.code.toNat := by
  unfold selector
  cases s.mode <;> cases s.phase <;> rfl

/-- The sequencer's turn has two ways to come: no move left, or the host waits. -/
theorem step_eq_sequencerTurn {s s0 : State}
    (h : (s.host = [] ∧ s0 = s) ∨ (∃ q, s.host = .wait :: q ∧ s0 = { s with host := q })) :
    step s = sequencerTurn s0 := by
  rcases h with ⟨hq, rfl⟩ | ⟨q, hq, rfl⟩
  · exact step_nil hq
  · exact step_eq_hostTurn hq

theorem sequencerTurn_of_not_busy {s : State} (h : s.life ≠ .busy) : sequencerTurn s = .next s := if_neg h

theorem sequencerTurn_of_busy {s : State} {i : Instr} (h : s.life = .busy) (hi : decodeSelector (selector s) = .ok i) :
    sequencerTurn s = exec i s := by
  unfold sequencerTurn
  rw [if_pos h, hi]

/-- Settles O4: the block on its turn differs from `s` in the list of moves only, so STATE and the selector are those of
`s`. -/
theorem sequencerRunsTheSelectedOperation : Obligations.SequencerRunsTheSelectedOperation := by
  intro s s0 h
  have life : s0.life = s.life := by rcases h with ⟨-, rfl⟩ | ⟨q, -, rfl⟩ <;> rfl
  have sel : selector s0 = selector s := by rcases h with ⟨-, rfl⟩ | ⟨q, -, rfl⟩ <;> rfl
  rw [step_eq_sequencerTurn h]
  exact ⟨selector_toNat s, fun hl => sequencerTurn_of_not_busy (life ▸ hl),
    fun i hb hi => sequencerTurn_of_busy (life.trans hb) (sel ▸ hi)⟩

/-! ### The commands and reset -/

/-- Settles O5: a write to register 0 is `commandWrite`, which decodes the low 8 bits. -/
theorem commandWriteRunsTheCommand : Obligations.CommandWriteRunsTheCommand := by
  intro s q v i hq hl hi
  rw [step_eq_hostTurn hq]
  show commandWrite v { s with host := q } = exec i { s with host := q }
  unfold commandWrite
  rw [if_neg hl, hi]

theorem execConv_of_refusal {s : State} {r : Refusal} (hl : s.life ≠ .busy) (hr : convRefusal s = some r) :
    execConv s = .refused r := by
  unfold execConv
  rw [if_neg hl, hr]

/-- Settles O20: the two refusals are the two branches of CONV's check. -/
theorem convWithoutMeaningIsRefused : Obligations.ConvWithoutMeaningIsRefused := by
  intro s hl
  refine ⟨fun empty => execConv_of_refusal hl (if_pos empty), fun hw hh hm shared => execConv_of_refusal hl ?_⟩
  have same : s.sh0 = s.sh1 ∨ s.sh0 = s.sh2 ∨ s.sh1 = s.sh2 := by unfold SharedDistinct at shared; tauto
  unfold convRefusal
  rw [if_neg (by omega), if_pos ⟨hm, same⟩]

/-- CONV overwrites everything that is not an input (R52, R205). -/
theorem startConversion_congr {s t : State} (h : SameInputs s t) : startConversion t = startConversion s := by
  obtain ⟨cfg, ctrl, tc, sc, sh0, sh1, sh2, imgW, imgH, pix, pixEpoch, host, busRead⟩ := h
  simp only [startConversion, clearResults, setPos, cfg, ctrl, tc, sc, sh0, sh1, sh2, imgW, imgH, pix, pixEpoch, host,
    busRead]

theorem convRefusal_congr {s t : State} (h : SameInputs s t) : convRefusal t = convRefusal s := by
  unfold convRefusal
  rw [h.imgW, h.imgH, h.mode, h.sh0, h.sh1, h.sh2]

/-- Settles O22: both CONV's check and the block it starts depend on the inputs only. -/
theorem nothingSurvivesIntoTheNextConversion : Obligations.NothingSurvivesIntoTheNextConversion := by
  intro s t hs ht same
  show execConv s = execConv t
  unfold execConv
  rw [if_neg hs, if_neg ht, convRefusal_congr same, startConversion_congr same]

/-- Settles O40: at reset the block is IDLE with everything cleared. -/
theorem invariantHoldsAtReset : Obligations.InvariantHoldsAtReset where
  dimBits := by decide
  imgW := by decide
  imgH := by decide
  pix := rfl
  fg := by decide
  life := ⟨⟨rfl, rfl, rfl, rfl, rfl, rfl, rfl, rfl, rfl, rfl, rfl, rfl, rfl⟩, rfl, rfl, rfl, rfl⟩

/-! ### What a conversion depends on -/

/-- A sprite conversion reads the dimensions and the constraints, and nothing else of the configuration (R34). -/
theorem convertSprite_congr {c d : ConvConfig} (w : c.w = d.w) (h : c.h = d.h) (tc : c.tc = d.tc) (sc : c.sc = d.sc)
    (g : Nat → Nat → Idx) : convertSprite c g = convertSprite d g := by
  unfold convertSprite
  rw [w, h, tc, sc]

/-- A tile's conversion reads the width and the shared colours (R153). -/
theorem convertTile_congr {c d : ConvConfig} (w : c.w = d.w) (sh0 : c.sh0 = d.sh0) (sh1 : c.sh1 = d.sh1)
    (sh2 : c.sh2 = d.sh2) (g : Nat → Nat → Idx) : convertTile c g = convertTile d g := by
  funext k
  unfold convertTile
  rw [w, sh0, sh1, sh2]

theorem convertTiles_congr {c d : ConvConfig} {g : Nat → Nat → Idx} (tile : convertTile c g = convertTile d g)
    (ks : List Nat) (acc : ConvOutput) : convertTiles c g ks acc = convertTiles d g ks acc := by
  induction ks generalizing acc with
  | nil => rfl
  | cons k l ih => simp only [convertTiles_cons, tile, ih]

/-- A tileset conversion reads the dimensions, the shared colours and ATTR_EN (R23, R34). -/
theorem convertTileset_congr {c d : ConvConfig} (w : c.w = d.w) (h : c.h = d.h) (attrEn : c.attrEn = d.attrEn)
    (sh0 : c.sh0 = d.sh0) (sh1 : c.sh1 = d.sh1) (sh2 : c.sh2 = d.sh2) (g : Nat → Nat → Idx) :
    convertTileset c g = convertTileset d g := by
  have tiles := convertTiles_congr (convertTile_congr w sh0 sh1 sh2 g)
  unfold convertTileset
  simp only [w, h, attrEn, tiles]

/-- Settles O50: each arm of `Convert` reads its own mode's part of the configuration. -/
theorem modesIgnoreEachOthersConfiguration : Obligations.ModesIgnoreEachOthersConfiguration := by
  intro s t mode w h pixels
  have arms (m : Mode) (hm : s.mode = m) : s.convConfig.mode = m ∧ t.convConfig.mode = m := ⟨hm, mode.symm.trans hm⟩
  refine ⟨fun hm tcEn scEn tc sc => ?_, fun hm attrEn sh0 sh1 sh2 => ?_⟩
  · obtain ⟨ms, mt⟩ := arms _ hm
    have tcOp : tcOperand s = tcOperand t := by unfold tcOperand; rw [tcEn, tc]
    have scOp : scOperand s = scOperand t := by unfold scOperand; rw [scEn, sc]
    simp only [convert, ms, mt]
    rw [pixels]
    exact convertSprite_congr w h tcOp scOp _
  · obtain ⟨ms, mt⟩ := arms _ hm
    simp only [convert, ms, mt]
    rw [pixels]
    exact convertTileset_congr w h attrEn sh0 sh1 sh2 _

end Sys2Proof.Machine
end

section
/-! PROOFS. What is staged during a conversion, and what the output memories hold after it (spec/20_memory.md R61, R76,
R79). -/

namespace Sys2Proof.Machine

/-! ### The staged contents at each position -/

section positions

variable {s : State}

theorem stagedContents_spriteStart (hm : s.mode = .sprite) (hp : s.phase = .split ∨ s.phase = .resolve) :
    StagedContents s ↔ FramesStaged s 0 := by
  rcases hp with hp | hp <;> simp only [StagedContents, hm, hp]

theorem stagedContents_spritePack (hm : s.mode = .sprite) (hp : s.phase = .pack) :
    StagedContents s ↔ FramesStaged s s.blk ∧
      resolveSprite (imageColours s) (tcOperand s) (scOperand s) = .ok s.ct.toList := by
  simp only [StagedContents, hm, hp]

theorem stagedContents_spriteEmit (hm : s.mode = .sprite) (hp : s.phase = .emit) :
    StagedContents s ↔ FramesStaged s s.nblk ∧
      resolveSprite (imageColours s) (tcOperand s) (scOperand s) = .ok s.ct.toList := by
  simp only [StagedContents, hm, hp]

theorem stagedContents_tileSplit (hm : s.mode = .tileset) (hp : s.phase = .split) :
    StagedContents s ↔ TilesStaged s 0 0 := by
  simp only [StagedContents, hm, hp]

theorem stagedContents_tileResolve (hm : s.mode = .tileset) (hp : s.phase = .resolve) :
    StagedContents s ↔ TilesStaged s s.blk s.blk := by
  simp only [StagedContents, hm, hp]

theorem stagedContents_tilePack (hm : s.mode = .tileset) (hp : s.phase = .pack) :
    StagedContents s ↔ TilesStaged s s.blk s.blk ∧ tileForeground s s.blk = .ok s.fg := by
  simp only [StagedContents, hm, hp]

theorem stagedContents_tileAttr (hm : s.mode = .tileset) (hp : s.phase = .attr) :
    StagedContents s ↔ TilesStaged s (s.blk + 1) s.blk ∧ tileForeground s s.blk = .ok s.fg := by
  simp only [StagedContents, hm, hp]

theorem stagedContents_tileEmit (hm : s.mode = .tileset) (hp : s.phase = .emit) :
    StagedContents s ↔ TilesStaged s s.nblk s.nblk := by
  simp only [StagedContents, hm, hp]

end positions

/-- The position does not enter into the bytes staged. -/
theorem FramesStaged.setPos {s : State} {n : Nat} (h : FramesStaged s n) (p : Phase) (k : Nat) :
    FramesStaged (setPos s p k) n :=
  h.congr (setPos_sameInputs s p k) rfl rfl

theorem TilesStaged.setPos {s : State} {n m : Nat} (h : TilesStaged s n m) (p : Phase) (k : Nat) :
    TilesStaged (setPos s p k) n m :=
  h.congr (setPos_sameInputs s p k) rfl rfl

/-- The outside world's own fields do not enter into what is staged. -/
theorem stagedContents_visited {s : State} (q : List HostAction) (b : Option Nat) :
    StagedContents { s with host := q, busRead := b } ↔ StagedContents s := Iff.rfl

theorem stagedContents_startConversion (s : State) : StagedContents (startConversion s) := by
  cases hm : (startConversion s).mode with
  | sprite => exact (stagedContents_spriteStart hm (.inl rfl)).2 (framesStaged_zero rfl)
  | tileset => exact (stagedContents_tileSplit hm rfl).2 (tilesStaged_zero rfl rfl)

/-! ### The operations -/

section operations

variable {s t : State}

/-- RESOLVE.T by the tile's foreground (R153): the failure, or the table and the next position. -/
theorem execResolveT_foreground (s : State) :
    (∃ k, tileForeground s s.blk = .error k ∧ execResolveT s = .next (raise k s.blk s)) ∨
    (∃ tset ns fg, tileForeground s s.blk = .ok fg ∧ execResolveT s = .next { s with
      tset := tset, ns := ns, ct := ⟨s.sh0, s.sh1, s.sh2, fg⟩, fg := fg, phase := .pack, blk := s.blk }) := by
  unfold execResolveT tileForeground
  split
  · next k hk => exact .inl ⟨k, hk, rfl⟩
  · next fg hfg => exact .inr ⟨_, _, fg, hfg, rfl⟩

/-- What RESOLVE.S gives depends on the inputs only (R141). -/
theorem resolveSprite_congr (h : SameInputs s t) :
    resolveSprite (imageColours t) (tcOperand t) (scOperand t) =
      resolveSprite (imageColours s) (tcOperand s) (scOperand s) := by
  rw [h.imageColours, tcOperand_congr h.ctrl h.tc, scOperand_congr h.ctrl h.sc]

/-- A splitter that goes on stages nothing (R120, R122). -/
theorem staged_storeSplit {r : Except FailKind (Nat × Nat)} (hp : s.phase = .split) (staged : StagedContents s)
    (hl : (storeSplit r s).life = .busy) : StagedContents (storeSplit r s) := by
  rcases storeSplit_cases r s with ⟨k, -, e⟩ | ⟨n, b, -, e⟩ <;> rw [e] at hl ⊢
  · cases hl
  · have same : SameInputs s { s with nblk := n, bpb := b, phase := .resolve, blk := 0 } :=
      ⟨rfl, rfl, rfl, rfl, rfl, rfl, rfl, rfl, rfl, rfl, rfl, rfl, rfl⟩
    cases hm : s.mode with
    | sprite =>
      rw [stagedContents_spriteStart hm (.inl hp)] at staged
      exact (stagedContents_spriteStart (same.mode.trans hm) (.inr rfl)).2 (staged.congr same rfl rfl)
    | tileset =>
      rw [stagedContents_tileSplit hm hp] at staged
      exact (stagedContents_tileResolve (same.mode.trans hm) rfl).2 (staged.congr same rfl rfl)

theorem staged_execResolveS (position : SpritePosition s) (hm : s.mode = .sprite) (hp : s.phase = .resolve)
    (ht : execResolveS s = .next t) (hl : t.life = .busy) : StagedContents t := by
  have same : SameInputs s t := exec_sameInputs (i := .resolveS) ht
  obtain ⟨-, -, position⟩ := position
  simp only [hp] at position
  obtain ⟨-, -, noPix⟩ := position
  rcases execResolveS_cases s with ⟨k, -, e⟩ | ⟨u, hu, e⟩ <;> rw [e] at ht <;> cases ht
  · cases hl
  · obtain ⟨le, perm⟩ := resolveSprite_perm hu
    have table : (ColorTable.ofList u).toList = u := toList_ofList (perm.length_eq.trans (padSeen_length le))
    refine (stagedContents_spritePack (same.mode.trans hm) rfl).2 ⟨framesStaged_zero noPix, ?_⟩
    rw [resolveSprite_congr same, hu, table]

theorem staged_execResolveT (staged : StagedContents s) (hm : s.mode = .tileset) (hp : s.phase = .resolve)
    (ht : execResolveT s = .next t) (hl : t.life = .busy) : StagedContents t := by
  have same : SameInputs s t := exec_sameInputs (i := .resolveT) ht
  rw [stagedContents_tileResolve hm hp] at staged
  rcases execResolveT_foreground s with ⟨k, -, e⟩ | ⟨tset, ns, fg, hfg, e⟩ <;> rw [e] at ht <;> cases ht
  · cases hl
  · exact (stagedContents_tilePack (same.mode.trans hm) rfl).2
      ⟨staged.congr same rfl rfl, (same.tileForeground s.blk).trans hfg⟩

theorem staged_execPackS (position : SpritePosition s) (staged : StagedContents s) (hm : s.mode = .sprite)
    (hp : s.phase = .pack) (ht : execPack .sprite s = .next t) (hl : t.life = .busy) : StagedContents t := by
  have same : SameInputs s t := exec_sameInputs (i := .pack .sprite) ht
  obtain ⟨-, -, position⟩ := position
  simp only [hp] at position
  obtain ⟨-, hk, -, -⟩ := position
  obtain ⟨frames, resolved⟩ := (stagedContents_spritePack hm hp).1 staged
  rcases execPack_cases .sprite s with ⟨-, e⟩ | ⟨bytes, packed, e⟩ <;> rw [e] at ht <;> cases ht
  · cases hl
  · have frames' : FramesStaged (appendPix s bytes) (s.blk + 1) := frames.snoc packed
    rcases afterPack_cases .sprite (appendPix s bytes) with ⟨-, -, e⟩ | ⟨-, le, e⟩ | ⟨hc, -⟩
    · rw [e] at same ⊢
      exact (stagedContents_spritePack (same.mode.trans hm) rfl).2
        ⟨frames'.setPos _ _, (resolveSprite_congr same).trans resolved⟩
    · rw [e] at same ⊢
      have last : s.blk + 1 = s.nblk := Nat.le_antisymm hk le
      rw [last] at frames'
      exact (stagedContents_spriteEmit (same.mode.trans hm) rfl).2
        ⟨frames'.setPos _ _, (resolveSprite_congr same).trans resolved⟩
    · cases hc

theorem staged_execPackT (position : TilePosition s) (staged : StagedContents s) (hm : s.mode = .tileset)
    (hp : s.phase = .pack) (ht : execPack .tileset s = .next t) (hl : t.life = .busy) : StagedContents t := by
  have same : SameInputs s t := exec_sameInputs (i := .pack .tileset) ht
  obtain ⟨-, position⟩ := position
  simp only [hp] at position
  obtain ⟨-, -, -, -, table, -⟩ := position
  obtain ⟨tiles, foreground⟩ := (stagedContents_tilePack hm hp).1 staged
  rcases execPack_cases .tileset s with ⟨-, e⟩ | ⟨bytes, packed, e⟩ <;> rw [e] at ht <;> cases ht
  · cases hl
  · rw [table] at packed
    have tiles' : TilesStaged (appendPix s bytes) (s.blk + 1) s.blk := tiles.snoc foreground packed
    exact (stagedContents_tileAttr (same.mode.trans hm) rfl).2
      ⟨tiles'.setPos _ _, (same.tileForeground s.blk).trans foreground⟩

theorem staged_execAttr (position : TilePosition s) (staged : StagedContents s) (hm : s.mode = .tileset)
    (hp : s.phase = .attr) (ht : execAttr s = .next t) : StagedContents t := by
  have same : SameInputs s t := exec_sameInputs (i := .attr) ht
  obtain ⟨-, position⟩ := position
  simp only [hp] at position
  obtain ⟨-, hk, -, -⟩ := position
  obtain ⟨tiles, foreground⟩ := (stagedContents_tileAttr hm hp).1 staged
  have tiles' : TilesStaged (appendAttr s (attrByte s.fg)) (s.blk + 1) (s.blk + 1) := tiles.attr foreground
  simp only [execAttr, Host.Outcome.next.injEq] at ht
  subst ht
  rcases afterAttr_cases (appendAttr s (attrByte s.fg)) with ⟨-, e⟩ | ⟨le, e⟩ <;> rw [e] at same ⊢
  · exact (stagedContents_tileResolve (same.mode.trans hm) rfl).2 (tiles'.setPos _ _)
  · have last : s.blk + 1 = s.nblk := Nat.le_antisymm hk le
    rw [last] at tiles'
    exact (stagedContents_tileEmit (same.mode.trans hm) rfl).2 (tiles'.setPos _ _)

/-- The operation of a BUSY block that goes on keeps what is staged exact. -/
theorem staged_operation {i : Instr} (h : BusyInv s) (staged : StagedContents s) (hi : AtPosition s i)
    (ht : exec i s = .next t) (hl : t.life = .busy) : StagedContents t := by
  cases hi with
  | splitS hm hp => cases ht; exact staged_storeSplit hp staged hl
  | splitT hm hp => cases ht; exact staged_storeSplit hp staged hl
  | resolveS hm hp => exact staged_execResolveS (h.sprite hm) hm hp ht hl
  | resolveT hm hp => exact staged_execResolveT staged hm hp ht hl
  | packS hm hp => exact staged_execPackS (h.sprite hm) staged hm hp ht hl
  | packT hm hp => exact staged_execPackT (h.tileset hm) staged hm hp ht hl
  | attr hm hp => exact staged_execAttr (h.tileset hm) staged hm hp ht
  | emitS => cases ht; cases hl
  | emitT => cases ht; cases hl

end operations

/-- A register write leaves STATE alone. -/
theorem writeReg_life (n v : Nat) (s : State) : (writeReg n v s).life = s.life := by
  obtain ⟨_, _, _, _, _, _, _, _, e, -⟩ := writeReg_eq n v s
  rw [e]

theorem Turn.keeps_staged {s t : State} {a : HostAction} (turn : Turn s a t) (h : Inv s)
    (staged : s.life = .busy → StagedContents s) (hl : t.life = .busy) : StagedContents t := by
  cases turn with
  | ignored => exact staged hl
  | read => exact (stagedContents_visited _ _).2 (staged hl)
  | reset => cases hl
  | pix x y v idle => exact absurd ((pixWrite_life s x y v).symm.trans hl) idle
  | register n v idle => exact absurd ((writeReg_life n v s).symm.trans hl) idle
  | conv => exact stagedContents_startConversion s
  | clr => cases hl
  | operation busy selected runs =>
    exact staged_operation (h.busy busy) (staged busy) (atPosition_of_selected selected) runs hl

/-- Settles O53: a step is one turn; a CONV starts with nothing staged, an operation that goes on stages what its
position adds, and no other turn that leaves the block BUSY touches what is staged or the pixels. -/
theorem everyStepKeepsTheStagedContents : Obligations.EveryStepKeepsTheStagedContents := by
  intro s t h staged ht
  obtain ⟨a, q, -, turn⟩ := step_turn ht
  exact turn.keeps_staged (h.visited q s.busRead) staged

/-! ### The output memories -/

/-- Outside DONE both output memories are empty (R79). -/
theorem Inv.outputs_empty {s : State} (h : Inv s) (hl : s.life ≠ .done) : s.attrOut = [] ∧ s.pixOut = [] := by
  cases life : s.life with
  | idle => exact ⟨(h.idle life).cleared.attrOut, (h.idle life).cleared.pixOut⟩
  | busy => exact ⟨(h.busy life).attrOut, (h.busy life).pixOut⟩
  | done => exact absurd life hl
  | failed => exact ⟨(h.failed life).cleared.attrOut, (h.failed life).cleared.pixOut⟩

/-- The operation that ends a conversion in DONE commits what is staged (R190, R191). -/
theorem outputs_of_operation {s t : State} {i : Instr} (hb : s.life = .busy) (hi : AtPosition s i)
    (ht : exec i s = .next t) (hd : t.life = .done) :
    t.pixOut = s.pixStage ∧ t.attrOut = if s.mode = .tileset ∧ s.attrEn = true then s.attrStage else [] := by
  have emit : s.phase = .emit := by
    rcases goesOnOrEnds_of_operation hi ht with e | ⟨-, e⟩ | ⟨e, -⟩
    · simp [e, hb] at hd
    · exact e
    · simp [e] at hd
  cases hi with
  | emitS hm => cases ht; exact ⟨rfl, by simp [hm]⟩
  | emitT hm => cases ht; exact ⟨rfl, by simp [hm]⟩
  | splitS _ hp | splitT _ hp | resolveS _ hp | resolveT _ hp | packS _ hp | packT _ hp | attr _ hp =>
    cases hp.symm.trans emit

/-- A turn of a BUSY block that ends in DONE is the EMIT operation. -/
theorem Turn.commits_staged {s t : State} {a : HostAction} (turn : Turn s a t) (hb : s.life = .busy)
    (hd : t.life = .done) :
    t.pixOut = s.pixStage ∧ t.attrOut = if s.mode = .tileset ∧ s.attrEn = true then s.attrStage else [] := by
  cases turn with
  | ignored | read => cases hb.symm.trans hd
  | reset => cases hd
  | pix _ _ _ idle | register _ _ idle | conv _ idle | clr _ idle => exact absurd hb idle
  | operation busy selected runs => exact outputs_of_operation busy (atPosition_of_selected selected) runs hd

/-- Settles O44: the invariant holds after the step and says that the outputs are empty outside DONE and complete in it;
what is committed is read off the one turn that ends a conversion. -/
theorem outputIsAllOrNothing : Obligations.OutputIsAllOrNothing := by
  intro s t h ht
  have inv : Inv t := everyStepKeepsTheInvariant s t h ht
  refine ⟨inv.outputs_empty, fun hd => ?_⟩
  have visible (v : Nat) : hideWhileBusy t v = v := hideWhileBusy_of_not_busy (by simp [hd]) v
  have done := inv.done hd
  obtain ⟨a, q, -, turn⟩ := step_turn ht
  simp only [readReg, visible]
  exact ⟨done.pixLen, done.product, done.attrLen, fun hb => turn.commits_staged hb hd⟩

/-! ### The linear address -/

/-- Settles O18: `x` is the remainder and `y` the quotient of the address by the row length. -/
theorem pixLinearAddress : Obligations.PixLinearAddress := by
  intro s x y hx hy
  have column : (y * s.imgW + x) % s.imgW = x := by rw [Nat.mul_add_mod', Nat.mod_eq_of_lt hx]
  have row : (y * s.imgW + x) / s.imgW = y := by
    rw [Nat.mul_comm, Nat.mul_add_div (Nat.zero_lt_of_lt hx), Nat.div_eq_of_lt hx, Nat.add_zero]
  refine ⟨by rw [memRead, column, row], ?_⟩
  calc y * s.imgW + x < y * s.imgW + s.imgW := Nat.add_lt_add_left hx _
    _ = s.imgW * (y + 1) := by ring
    _ ≤ s.imgW * s.imgH := Nat.mul_le_mul_left _ hy

end Sys2Proof.Machine
end

section
/-! PROOFS. The two control formats: what each word decodes to, and that a conversion never stands at a selector that is
no operation (spec/30_encoding.md R95, R96, R100, R101). -/

namespace Sys2Proof

/-! ### From an operation to its code and back -/

/-- The decoder reads every operation back from its code (R95, R96, R100), by the law of each constructor. -/
theorem decode_encode (i : Instr) (hi : i.wf = true) : decode (encode i) = .ok i := by
  cases i with
  | conv => exact (Laws.RoundTrip.conv hi).1
  | clr => exact (Laws.RoundTrip.clr hi).1
  | splitS => exact (Laws.RoundTrip.splitS hi).1
  | splitT => exact (Laws.RoundTrip.splitT hi).1
  | resolveS => exact (Laws.RoundTrip.resolveS hi).1
  | resolveT => exact (Laws.RoundTrip.resolveT hi).1
  | pack m => exact (Laws.RoundTrip.pack m hi).1
  | attr => exact (Laws.RoundTrip.attr hi).1
  | emitS => exact (Laws.RoundTrip.emitS hi).1
  | emitT => exact (Laws.RoundTrip.emitT hi).1

/-- A selector is its mode bit followed by its phase (R90, format U): the two fields leave no bit out. -/
theorem modeBit_append_selPhase (sel : BitVec 4) : modeBit (selMode sel) ++ selPhase sel = sel := by
  revert sel; decide

theorem selector_eq_of_fields {sel : BitVec 4} {m : Mode} {p : Nat} (hm : selMode sel = m)
    (hp : (selPhase sel).toNat = p) : modeBit m ++ BitVec.ofNat 3 p = sel := by
  rw [← hm, ← hp, BitVec.ofNat_toNat, BitVec.setWidth_eq, modeBit_append_selPhase]

/-- A byte that is a command is the code of that command (R96). -/
theorem encode_of_decodeCommand {c : BitVec 8} {i : Instr} (h : decodeCommand c = .ok i) : encode i = .command c := by
  unfold decodeCommand at h
  split at h
  · next e => cases h; rw [e]; rfl
  · split at h
    · next e => cases h; rw [e]; rfl
    · cases h

/-- A selector that is an operation is the code of that operation (R100): each row fixes both fields, but PACK's, which
keeps the mode it finds. -/
theorem encode_of_decodeSelector {sel : BitVec 4} {i : Instr} (h : decodeSelector sel = .ok i) :
    encode i = .selector sel := by
  unfold decodeSelector at h
  split at h <;> cases h
  case h_6.refl pack => exact congrArg Code.selector (selector_eq_of_fields rfl pack)
  all_goals
    next hm hp => exact congrArg Code.selector (selector_eq_of_fields hm hp)

/-- Settles O2: the codes decode to their operations constructor by constructor, and a code that decodes has the fields
of the row it decodes by. -/
theorem decodeAndEncodeAgree : Obligations.DecodeAndEncodeAgree := by
  refine ⟨decode_encode, fun w i h => ?_⟩
  cases w with
  | command c => exact encode_of_decodeCommand h
  | selector sel => exact encode_of_decodeSelector h

/-- Settles O1: the words of the table are the codes of the encoder, which decode to their operations. -/
theorem tableWordsDecode : Obligations.TableWordsDecode :=
  ⟨decode_encode .conv rfl, decode_encode .clr rfl, decode_encode .splitS rfl, decode_encode .splitT rfl,
    decode_encode .resolveS rfl, decode_encode .resolveT rfl, decode_encode (.pack .sprite) rfl,
    decode_encode (.pack .tileset) rfl, decode_encode .attr rfl, decode_encode .emitS rfl, decode_encode .emitT rfl⟩

/-! ### What is no operation -/

theorem decodeCommand_of_reserved {c : BitVec 8} (h1 : c ≠ 0x01#8) (h2 : c ≠ 0x02#8) :
    decodeCommand c = .error .reservedCommand := by
  rw [decodeCommand, if_neg h1, if_neg h2]

/-- Settles O3: a command byte that is neither row's, and each reserved phase under either value of the mode bit. -/
theorem reservedCodesAreRejected : Obligations.ReservedCodesAreRejected := by
  refine ⟨fun c h1 h2 => decodeCommand_of_reserved h1 h2, fun m => ?_, rfl⟩
  obtain rfl | rfl := BitVec.eq_zero_or_eq_one m <;> exact ⟨rfl, rfl, rfl⟩

end Sys2Proof

namespace Sys2Proof.Machine

/-! ### No step faults -/

/-- No operation and no command answers a fault: CONV may refuse, and everything else goes on. -/
theorem exec_ne_fault (i : Instr) (s : State) (f : Fault) : exec i s ≠ .fault f := by
  cases i with
  | conv =>
    simp only [exec, execConv]
    split
    · nofun
    · split <;> nofun
  | clr =>
    simp only [exec, execClr]
    split <;> nofun
  | splitS | splitT | resolveS | resolveT | pack m | attr | emitS | emitT => nofun

/-- A conversion in progress stands at an operation (R100): neither sequence has the idle position, and the sprite
sequence has no ATTR (R206, R207). -/
theorem BusyInv.selects {s : State} (h : BusyInv s) : ∃ i, decodeSelector (selector s) = .ok i := by
  rw [decodeSelector_selector]
  cases hm : s.mode with
  | sprite =>
    obtain ⟨-, -, position⟩ := h.sprite hm
    cases hp : s.phase with
    | none | attr => simp [hp] at position
    | split | resolve | pack | emit => exact ⟨_, rfl⟩
  | tileset =>
    obtain ⟨-, position⟩ := h.tileset hm
    cases hp : s.phase with
    | none => simp [hp] at position
    | split | resolve | pack | attr | emit => exact ⟨_, rfl⟩

theorem sequencerTurn_ne_fault {s : State} (h : Inv s) (f : Fault) : sequencerTurn s ≠ .fault f := by
  by_cases busy : s.life = .busy
  · obtain ⟨i, selected⟩ := (h.busy busy).selects
    rw [sequencerTurn_of_busy busy selected]
    exact exec_ne_fault i s f
  · rw [sequencerTurn_of_not_busy busy]
    nofun

theorem commandWrite_ne_fault (v : Nat) (s : State) (f : Fault) : commandWrite v s ≠ .fault f := by
  unfold commandWrite
  split
  · nofun
  · split
    · exact exec_ne_fault _ s f
    · nofun

theorem outputRead_ne_fault (mem : List Byte) (i : Nat) (s : State) (f : Fault) : outputRead mem i s ≠ .fault f := by
  unfold outputRead
  split <;> nofun

/-- Of the outside world's moves only letting the sequencer go on could fault, and under the invariant it does not. -/
theorem hostTurn_ne_fault {s : State} (h : Inv s) (a : HostAction) (f : Fault) : hostTurn a s ≠ .fault f := by
  cases a with
  | wait => exact sequencerTurn_ne_fault h f
  | reset | rd n => nofun
  | rdAttr i => exact outputRead_ne_fault s.attrOut i s f
  | rdPix i => exact outputRead_ne_fault s.pixOut i s f
  | pix x y v =>
    simp only [hostTurn]
    split <;> nofun
  | wr n v =>
    simp only [hostTurn]
    split
    · exact commandWrite_ne_fault v s f
    · nofun

/-- Settles O42: a step is the sequencer's turn or a move of the outside world, and the invariant does not depend on
the moves still to come. -/
theorem noFaultUnderTheInvariant : Obligations.NoFaultUnderTheInvariant := by
  intro s f h
  rcases step_cases s with ⟨-, e⟩ | ⟨q, -, e⟩ | ⟨a, q, -, -, e⟩ <;> rw [e]
  · exact sequencerTurn_ne_fault h f
  · exact sequencerTurn_ne_fault (h.visited q s.busRead) f
  · exact hostTurn_ne_fault (h.visited q s.busRead) a f

end Sys2Proof.Machine
end

section
/-! PROOFS. The Frame Splitter: the blocks of an exact grid partition the image, and what SPLIT.S and SPLIT.T leave
(spec/40_frame_splitter.md R120 to R123). -/

namespace Sys2Proof.Machine

/-! ### The geometry of the blocks -/

/-- A column lies in the frame of its quotient by the frame width, and in no other (R121). -/
theorem column_in_blockS_iff {h k x : Nat} :
    ((blockS h k).x0 ≤ x ∧ x < (blockS h k).x0 + 12) ↔ k = x / 12 := by
  simp only [blockS]
  omega

/-- Settles O25: the frame of a column is its quotient by 12, which is a block number because the width is `12 * n`. -/
theorem framesPartitionTheImage : Obligations.FramesPartitionTheImage := by
  rintro w h n rfl
  refine ⟨fun k hk => ⟨rfl, ?_⟩, fun x y hx _ => ⟨x / 12, Nat.div_lt_of_lt_mul hx, fun j _ => column_in_blockS_iff⟩⟩
  simp only [blockS]
  omega

/-- A pixel lies in a tile exactly when the tile's grid column and row are those of the pixel (R123). -/
theorem pixel_in_blockT_iff {w k x y : Nat} :
    ((blockT w k).x0 ≤ x ∧ x < (blockT w k).x0 + 4 ∧ (blockT w k).y0 ≤ y ∧ y < (blockT w k).y0 + 8) ↔
      k / (w / 4) = y / 8 ∧ k % (w / 4) = x / 4 := by
  simp only [blockT]
  omega

/-- A grid cell inside a row stands at one place of the row-major order: the place whose quotient and remainder by the
number of columns are the cell's row and column. -/
theorem rowMajor_iff {cols row col k : Nat} (hc : col < cols) :
    k / cols = row ∧ k % cols = col ↔ k = col + cols * row := by
  rw [Nat.div_mod_unique (Nat.zero_lt_of_lt hc), and_iff_left hc, eq_comm]

theorem rowMajor_lt {cols rows row col : Nat} (hc : col < cols) (hr : row < rows) :
    col + cols * row < cols * rows :=
  calc col + cols * row < cols + cols * row := Nat.add_lt_add_right hc _
    _ = cols * (row + 1) := by ring
    _ ≤ cols * rows := Nat.mul_le_mul_left cols hr

/-- A tile of the grid lies inside the image (R123). -/
theorem blockT_inside {w h k : Nat} (hk : k < w / 4 * (h / 8)) :
    (blockT w k).x0 + 4 ≤ w ∧ (blockT w k).y0 + 8 ≤ h := by
  have row : k / (w / 4) < h / 8 := Nat.div_lt_of_lt_mul hk
  have col : k % (w / 4) < w / 4 := Nat.mod_lt k (Nat.pos_of_lt_mul_right hk)
  simp only [blockT]
  omega

/-- Settles O26: a pixel's tile is the row-major place of the cell `(x / 4, y / 8)` of the tile grid. -/
theorem tilesPartitionTheImage : Obligations.TilesPartitionTheImage := by
  intro w h hw hh
  refine ⟨fun k hk => ⟨(blockT_inside hk).1, (blockT_inside hk).2, rfl, rfl, rfl, rfl⟩, fun x y hx hy => ?_⟩
  have col : x / 4 < w / 4 := by omega
  have row : y / 8 < h / 8 := by omega
  exact ⟨x / 4 + w / 4 * (y / 8), rowMajor_lt col row, fun j _ => pixel_in_blockT_iff.trans (rowMajor_iff col)⟩

/-! ### The size checks -/

theorem splitSprite_of_inexact {w h : Nat} (inexact : w % 12 ≠ 0 ∨ h % 21 ≠ 0) :
    splitSprite w h = .error .sizeMismatch := if_pos inexact

theorem splitSprite_of_exact {w h : Nat} (hw : w % 12 = 0) (hh : h % 21 = 0) :
    splitSprite w h = .ok (w / 12, 3 * h) := if_neg (by omega)

theorem splitTileset_of_inexact {w h : Nat} (inexact : w % 4 ≠ 0 ∨ h % 8 ≠ 0) :
    splitTileset w h = .error .sizeMismatch := if_pos inexact

/-- On an exact grid only the tile count is left to check (R122). -/
theorem splitTileset_of_exact {w h : Nat} (hw : w % 4 = 0) (hh : h % 8 = 0) :
    splitTileset w h =
      if 256 < w / 4 * (h / 8) then .error .tooManyTiles else .ok (w / 4 * (h / 8), 8) := if_neg (by omega)

/-! ### The operations -/

/-- A splitter's failure enters FAILED with index 0 (R240). -/
theorem failedFrom_storeSplit {r : Except FailKind (Nat × Nat)} {k : FailKind} (h : r = .error k) (s : State) :
    FailedFrom s (storeSplit r s) k 0 := by
  subst h
  exact raise_failedFrom k 0 s

/-- A splitter's success writes NBLK, BPB and the position of RESOLVE (R120, R122). -/
theorem storeSplit_of_ok {r : Except FailKind (Nat × Nat)} {n b : Nat} (h : r = .ok (n, b)) (s : State) :
    storeSplit r s = { s with nblk := n, bpb := b, phase := .resolve, blk := 0 } := by
  subst h
  rfl

/-- Settles O23: SPLIT.S stores what the size check answers. -/
theorem splitSpriteSizesTheImage : Obligations.SplitSpriteSizesTheImage :=
  ⟨decode_encode .splitS rfl, fun s _ _ =>
    ⟨fun hw hh => congrArg Host.Outcome.next (storeSplit_of_ok (splitSprite_of_exact hw hh) s),
      fun inexact => ⟨_, rfl, failedFrom_storeSplit (splitSprite_of_inexact inexact) s⟩⟩⟩

/-- Settles O24: SPLIT.T stores what the size check answers, and on an exact grid what the tile count check answers. -/
theorem splitTilesetSizesTheImage : Obligations.SplitTilesetSizesTheImage :=
  ⟨decode_encode .splitT rfl, fun s _ _ =>
    ⟨fun inexact => ⟨_, rfl, failedFrom_storeSplit (splitTileset_of_inexact inexact) s⟩,
      fun hw hh many => ⟨_, rfl, failedFrom_storeSplit ((splitTileset_of_exact hw hh).trans (if_pos many)) s⟩,
      fun hw hh few => congrArg Host.Outcome.next
        (storeSplit_of_ok ((splitTileset_of_exact hw hh).trans (if_neg (Nat.not_lt.2 few))) s)⟩⟩

end Sys2Proof.Machine
end

section
/-! PROOFS. The Palette Resolver: which checks fail, where a constraint puts its colour, and the foreground of a tile
(spec/41_palette_resolver.md R141 to R159). -/

namespace Sys2Proof.Machine

/-! ### The constraints -/

/-- Constraints are told apart by their 4 bits: zero extension loses nothing (R94 (a)). -/
theorem zeroExtend_inj {a b : Nibble} : a.zeroExtend 8 = b.zeroExtend 8 ↔ a = b := by
  constructor
  · intro h
    have := congrArg BitVec.toNat h
    simp only [BitVec.truncate_eq_setWidth, BitVec.toNat_setWidth] at this
    bv_omega
  · rintro rfl; rfl

theorem zeroExtend_eq_zero {a : Nibble} : a.zeroExtend 8 = 0 ↔ a = 0 := zeroExtend_inj (b := 0)

theorem tcOperand_of_enabled {s : State} (h : s.tcEn = true) : tcOperand s = some (s.tc.zeroExtend 8) := if_pos h

theorem scOperand_of_enabled {s : State} (h : s.scEn = true) : scOperand s = some (s.sc.zeroExtend 8) := if_pos h

theorem mem_tcOperand {s : State} {v : Idx} : v ∈ tcOperand s ↔ s.tcEn = true ∧ s.tc.zeroExtend 8 = v := by
  simp [tcOperand]

theorem mem_scOperand {s : State} {v : Idx} : v ∈ scOperand s ↔ s.scEn = true ∧ s.sc.zeroExtend 8 = v := by
  simp [scOperand]

theorem coincide_iff {tc sc : Option Idx} : coincide tc sc = true ↔ ∃ v, v ∈ tc ∧ v ∈ sc := by
  cases tc with
  | none => simp [coincide]
  | some a =>
    cases sc with
    | none => simp [coincide]
    | some b => simp [coincide, eq_comm (a := b)]

/-- Both constraints given and equal (R146). -/
theorem coincide_operands {s : State} :
    coincide (tcOperand s) (scOperand s) = true ↔ s.tcEn = true ∧ s.scEn = true ∧ s.tc = s.sc := by
  rw [coincide_iff]
  simp only [mem_tcOperand, mem_scOperand]
  constructor
  · rintro ⟨v, ⟨tcEn, htc⟩, scEn, hsc⟩
    exact ⟨tcEn, scEn, zeroExtend_inj.1 (htc.trans hsc.symm)⟩
  · rintro ⟨tcEn, scEn, e⟩
    exact ⟨_, ⟨tcEn, rfl⟩, scEn, by rw [e]⟩

/-! ### The padded colours -/

/-- A colour is found among the image's or among the padding zeros (R144). -/
theorem mem_padSeen_distinct {img : List Idx} {v : Idx} :
    v ∈ padSeen (distinct img) ↔ v ∈ img ∨ v = 0 ∧ img.toFinset.card < 4 := by
  rw [padSeen, List.mem_append, mem_distinct, List.mem_replicate, distinct_length, ← Nat.pos_iff_ne_zero,
    Nat.sub_pos_iff_lt, and_comm]

/-- A constraint is found among the padded colours as its own colour or, being 0, as padding. -/
theorem constraint_mem_padSeen {img : List Idx} {c : Nibble} :
    c.zeroExtend 8 ∈ padSeen (distinct img) ↔ c.zeroExtend 8 ∈ img ∨ c = 0 ∧ img.toFinset.card < 4 := by
  rw [mem_padSeen_distinct, zeroExtend_eq_zero]

theorem constraint_not_mem_padSeen {img : List Idx} {c : Nibble} (hc : c.zeroExtend 8 ∉ img)
    (padding : c ≠ 0 ∨ img.toFinset.card = 4) : c.zeroExtend 8 ∉ padSeen (distinct img) := by
  rw [constraint_mem_padSeen]
  rintro (h | ⟨h0, hlt⟩)
  · exact hc h
  · exact padding.elim (fun h => h h0) (by omega)

/-- The collection holds the image's distinct colours in some order, and padding adds the zeros (R142, R144). -/
theorem padSeen_distinct_perm (img : List Idx) :
    (padSeen (distinct img)).Perm (img.dedup ++ List.replicate (4 - img.toFinset.card) 0) := by
  have collected : (distinct img).Perm img.dedup :=
    (List.perm_ext_iff_of_nodup (distinct_nodup img) img.nodup_dedup).2 fun v => by simp
  rw [padSeen, distinct_length]
  exact collected.append_right _

/-! ### The sort of S2 and the moves of S3 and S4 -/

theorem mem_sortAsc {t : List Idx} {v : Idx} : v ∈ sortAsc t ↔ v ∈ t := (sortAsc_perm t).mem_iff

theorem moveTo_of_mem {pos : Nat} {v : Idx} {t : List Idx} (h : v ∈ t) :
    moveTo pos (some v) t = .ok (insertAt (t.erase v) pos v) := by
  rw [moveTo, if_pos (contains_iff.2 h), removeFirst_eq_erase]

theorem moveTo_of_not_mem {pos : Nat} {v : Idx} {t : List Idx} (h : v ∉ t) :
    moveTo pos (some v) t = .error .colorNotFound :=
  if_neg (mt contains_iff.1 h)

theorem moveTo_error {pos : Nat} {c : Option Idx} {t : List Idx} {k : FailKind} (h : moveTo pos c t = .error k) :
    k = .colorNotFound := by
  rcases moveTo_cases pos c t with ⟨-, e⟩ | ⟨v, -, -, e⟩ | ⟨v, -, -, e⟩ <;> cases h.symm.trans e
  rfl

/-! ### RESOLVE.S: the checks -/

theorem resolveSprite_of_many {l : List Idx} (h : 4 < l.length) (tc sc : Option Idx) :
    resolveSprite l tc sc = .error .tooManyColors := if_pos h

/-- With at most four colours what is left is the coincidence check and the two moves (R146, R147, R148). -/
theorem resolveSprite_of_few {l : List Idx} (h : l.length ≤ 4) (tc sc : Option Idx) :
    resolveSprite l tc sc =
      if coincide tc sc then .error .colorNotFound
      else (moveTo 0 tc (sortAsc (padSeen l))).bind (moveTo 2 sc) := by
  rw [resolveSprite, if_neg (Nat.not_lt.2 h)]
  cases moveTo 0 tc (sortAsc (padSeen l)) <;> rfl

section few

variable {l : List Idx} (hl : l.length ≤ 4)
include hl

theorem resolveSprite_of_coincide {tc sc : Option Idx} (h : coincide tc sc = true) :
    resolveSprite l tc sc = .error .colorNotFound := by
  rw [resolveSprite_of_few hl, if_pos h]

/-- `tc` is missing from the sorted table, so S3 fails, unless the coincidence check has failed the same way. -/
theorem resolveSprite_of_tc_missing {v : Idx} (hv : v ∉ padSeen l) (sc : Option Idx) :
    resolveSprite l (some v) sc = .error .colorNotFound := by
  rw [resolveSprite_of_few hl, moveTo_of_not_mem (mt mem_sortAsc.1 hv)]
  exact ite_self _

/-- `sc` is missing from the table that S3 leaves, which has the same entries as the padded colours. -/
theorem resolveSprite_of_sc_missing {v : Idx} (hv : v ∉ padSeen l) (tc : Option Idx) :
    resolveSprite l tc (some v) = .error .colorNotFound := by
  rw [resolveSprite_of_few hl]
  split
  · rfl
  · cases h : moveTo 0 tc (sortAsc (padSeen l)) with
    | error k => exact congrArg Except.error (moveTo_error h)
    | ok u => exact moveTo_of_not_mem (mt ((moveTo_perm h).trans (sortAsc_perm _)).mem_iff.1 hv)

end few

theorem failedFrom_execResolveS {s : State} {k : FailKind}
    (h : resolveSprite (imageColours s) (tcOperand s) (scOperand s) = .error k) :
    ∃ t, exec .resolveS s = .next t ∧ FailedFrom s t k 0 := by
  rcases execResolveS_cases s with ⟨k', h', e⟩ | ⟨t, h', -⟩ <;> cases h.symm.trans h'
  exact ⟨_, e, raise_failedFrom k 0 s⟩

/-- Settles O27: each check fails by the set of the image's colours, and RESOLVE.S raises what its checks answer. -/
theorem resolveSpriteFailures : Obligations.ResolveSpriteFailures := by
  rintro s img rfl
  set img := blockPixels (pixRead s) ⟨0, 0, s.imgW, s.imgH⟩
  have size : (imageColours s).length = img.toFinset.card := distinct_length img
  refine ⟨fun many => failedFrom_execResolveS (resolveSprite_of_many (size ▸ many) _ _), fun card => ?_⟩
  have few : (imageColours s).length ≤ 4 := size ▸ card
  refine ⟨fun tcEn scEn same => failedFrom_execResolveS ?_, fun tcEn absent padding => failedFrom_execResolveS ?_,
    fun scEn absent padding => failedFrom_execResolveS ?_⟩
  · exact resolveSprite_of_coincide few (coincide_operands.2 ⟨tcEn, scEn, same⟩)
  · rw [tcOperand_of_enabled tcEn]
    exact resolveSprite_of_tc_missing few (constraint_not_mem_padSeen absent padding) _
  · rw [scOperand_of_enabled scEn]
    exact resolveSprite_of_sc_missing few (constraint_not_mem_padSeen absent padding) _

/-! ### RESOLVE.S: the table -/

/-- The entries of a sprite's table that no constraint has placed: all but 0 under `tc` and 2 under `sc` (R147, R148). -/
def ColorTable.unplaced (ct : ColorTable) (tc sc : Option Idx) : List Idx :=
  match tc, sc with
  | none, none => [ct.c0, ct.c1, ct.c2, ct.c3]
  | some _, none => [ct.c1, ct.c2, ct.c3]
  | none, some _ => [ct.c0, ct.c1, ct.c3]
  | some _, some _ => [ct.c1, ct.c3]

/-- The order of a resolved sprite table (R151 (b) to (d)): each constraint's colour has its place, and the others
ascend. -/
structure ColorTable.PlacedBy (ct : ColorTable) (tc sc : Option Idx) : Prop where
  first : ∀ v ∈ tc, ct.c0 = v
  third : ∀ v ∈ sc, ct.c2 = v
  ascending : (ct.unplaced tc sc).IsChain (· ≤ ·)

/-- The two moves of an ascending table whose entries include the constraints, by which constraints are given: the
entries left when the constraints' colours are taken out still ascend. -/
theorem moves_place {t : List Idx} {tc sc : Option Idx} (size : t.length = 4) (ascending : t.Pairwise (· ≤ ·))
    (htc : ∀ v ∈ tc, v ∈ t) (hsc : ∀ v ∈ sc, v ∈ t) (apart : ¬ coincide tc sc = true) :
    ∃ ct : ColorTable, (moveTo 0 tc t).bind (moveTo 2 sc) = .ok ct.toList ∧ ct.PlacedBy tc sc := by
  have without {u : List Idx} (h : u.Pairwise (· ≤ ·)) (v : Idx) : (u.erase v).Pairwise (· ≤ ·) :=
    h.sublist List.erase_sublist
  cases tc with
  | none =>
    cases sc with
    | none =>
      match t, size with
      | [a, b, c, d], _ => exact ⟨⟨a, b, c, d⟩, rfl, nofun, nofun, ascending.isChain⟩
    | some v =>
      have hv : v ∈ t := hsc v rfl
      obtain ⟨a, b, d, rest⟩ := List.length_eq_three.1 (show (t.erase v).length = 3 by simp [hv, size])
      refine ⟨⟨a, b, v, d⟩, ?_, nofun, by simp, (rest ▸ without ascending v).isChain⟩
      exact (moveTo_of_mem hv).trans (by rw [rest]; rfl)
  | some w =>
    have hw : w ∈ t := htc w rfl
    rw [moveTo_of_mem hw]
    cases sc with
    | none =>
      obtain ⟨b, c, d, rest⟩ := List.length_eq_three.1 (show (t.erase w).length = 3 by simp [hw, size])
      exact ⟨⟨w, b, c, d⟩, by rw [rest]; rfl, by simp, nofun, (rest ▸ without ascending w).isChain⟩
    | some v =>
      have ne : w ≠ v := fun e => apart (by simp [coincide, e])
      have hv : v ∈ t.erase w := (List.mem_erase_of_ne ne.symm).2 (hsc v rfl)
      obtain ⟨b, d, rest⟩ := List.length_eq_two.1
        (show ((t.erase w).erase v).length = 2 by rw [List.length_erase_of_mem hv, List.length_erase_of_mem hw, size])
      refine ⟨⟨w, b, v, d⟩, ?_, by simp, by simp, (rest ▸ without (without ascending w) v).isChain⟩
      calc moveTo 2 (some v) (w :: t.erase w)
          = .ok (insertAt (w :: (t.erase w).erase v) 2 v) := by
            rw [moveTo_of_mem (List.mem_cons_of_mem w hv), List.erase_cons_tail (by simpa using ne)]
        _ = .ok [w, b, v, d] := by rw [rest]; rfl

/-- RESOLVE.S succeeds when no check fails, with each constraint's colour in its place. -/
theorem resolveSprite_places {l : List Idx} {tc sc : Option Idx} (few : l.length ≤ 4)
    (htc : ∀ v ∈ tc, v ∈ padSeen l) (hsc : ∀ v ∈ sc, v ∈ padSeen l) (apart : ¬ coincide tc sc = true) :
    ∃ ct : ColorTable, resolveSprite l tc sc = .ok ct.toList ∧ ct.PlacedBy tc sc := by
  rw [resolveSprite_of_few few, if_neg apart]
  exact moves_place ((sortAsc_perm _).length_eq.trans (padSeen_length few)) (sortAsc_sorted _)
    (fun v h => mem_sortAsc.2 (htc v h)) (fun v h => mem_sortAsc.2 (hsc v h)) apart

theorem execResolveS_of_ok {s : State} {ct : ColorTable}
    (h : resolveSprite (imageColours s) (tcOperand s) (scOperand s) = .ok ct.toList) :
    exec .resolveS s = .next { s with seen := padSeen (imageColours s), ct := ct, phase := .pack, blk := 0 } := by
  rcases execResolveS_cases s with ⟨k, h', -⟩ | ⟨t, h', e⟩ <;> cases h.symm.trans h'
  exact e

/-- Settles O28: the table RESOLVE.S writes permutes the padded colours, and the constraints place its entries. -/
theorem resolveSpriteTable : Obligations.ResolveSpriteTable := by
  rintro s img rfl card apart htc hsc
  set img := blockPixels (pixRead s) ⟨0, 0, s.imgW, s.imgH⟩
  have few : (imageColours s).length ≤ 4 := (distinct_length img).trans_le card
  have tcFound : ∀ v ∈ tcOperand s, v ∈ padSeen (imageColours s) := fun v h => by
    obtain ⟨tcEn, rfl⟩ := mem_tcOperand.1 h
    exact constraint_mem_padSeen.2 (htc tcEn)
  have scFound : ∀ v ∈ scOperand s, v ∈ padSeen (imageColours s) := fun v h => by
    obtain ⟨scEn, rfl⟩ := mem_scOperand.1 h
    exact constraint_mem_padSeen.2 (hsc scEn)
  obtain ⟨ct, resolved, placed⟩ := resolveSprite_places few tcFound scFound (mt coincide_operands.1 apart)
  have padded := padSeen_distinct_perm img
  refine ⟨_, ct, execResolveS_of_ok resolved, padded, (resolveSprite_perm resolved).2.trans padded,
    fun tcEn => placed.first _ (tcOperand_of_enabled tcEn), fun scEn => placed.third _ (scOperand_of_enabled scEn), ?_⟩
  refine ⟨fun tcEn scEn => ?_, fun tcEn scEn => ?_, fun tcEn scEn => ?_, fun tcEn scEn => ?_⟩ <;>
    simpa [ColorTable.unplaced, tcOperand, scOperand, tcEn, scEn] using placed.ascending

/-! ### RESOLVE.T -/

/-- The candidates are the set of the tile's colours that are not shared (R155). -/
theorem nonShared_toFinset {a b c : Idx} {l : List Idx} :
    (nonShared a b c (distinct l)).toFinset = l.toFinset \ {a, b, c} := by
  ext p
  simp [mem_nonShared]

theorem distinct_toFinset (l : List Idx) : (distinct l).toFinset = l.toFinset := by
  ext p
  simp

theorem nonShared_nodup (a b c : Idx) (l : List Idx) : (nonShared a b c (distinct l)).Nodup :=
  (distinct_nodup l).filter _

theorem nonShared_eq_filter (a b c : Idx) (l : List Idx) :
    nonShared a b c l = l.filter fun p => p ∉ [a, b, c] :=
  List.filter_congr fun p _ => by rw [Bool.eq_iff_iff]; simp [and_assoc]

/-- A list without repeats whose set is one value is the list of that value. -/
theorem eq_singleton_of_toFinset {l : List Idx} {f : Idx} (nodup : l.Nodup) (h : l.toFinset = {f}) : l = [f] :=
  List.perm_singleton.1 (List.perm_of_nodup_nodup_toFinset_eq nodup (List.nodup_singleton f) (by simpa using h))

theorem resolveTile_of_many {ns : List Idx} (h : 1 < ns.length) : resolveTile ns = .error .ambiguousForeground := if_pos h

theorem resolveTile_nil : resolveTile [] = .ok 0 := rfl

theorem resolveTile_singleton (f : Idx) :
    resolveTile [f] = if 7 < f.toNat then .error .foregroundOutOfRange else .ok f := rfl

theorem failedFrom_execResolveT {s : State} {k : FailKind} (h : tileForeground s s.blk = .error k) :
    ∃ t, exec .resolveT s = .next t ∧ FailedFrom s t k s.blk := by
  rcases execResolveT_foreground s with ⟨k', h', e⟩ | ⟨_, _, fg, h', -⟩ <;> cases h.symm.trans h'
  exact ⟨_, e, raise_failedFrom k s.blk s⟩

theorem execResolveT_of_ok {s : State} {fg : Idx} (h : tileForeground s s.blk = .ok fg) :
    exec .resolveT s = .next { s with
      tset := tileColours s s.blk, ns := nonShared s.sh0 s.sh1 s.sh2 (tileColours s s.blk)
      ct := ⟨s.sh0, s.sh1, s.sh2, fg⟩, fg := fg, phase := .pack, blk := s.blk } := by
  unfold tileForeground at h
  simp only [exec, execResolveT, h]
  rfl

/-- Settles O29: NS lists the set `fgs` without repeats, so RESOLVE.T's outcome goes by how many colours `fgs` has. -/
theorem resolveTileTable : Obligations.ResolveTileTable := by
  refine ⟨decode_encode .resolveT rfl, ?_⟩
  rintro s img rfl fgs rfl
  set img := blockPixels (pixRead s) ⟨4 * (s.blk % (s.imgW / 4)), 8 * (s.blk / (s.imgW / 4)), 4, 8⟩
  set ns := nonShared s.sh0 s.sh1 s.sh2 (distinct img) with hns
  have foreground : tileForeground s s.blk = resolveTile ns := rfl
  have nodup : ns.Nodup := nonShared_nodup _ _ _ img
  rw [← nonShared_toFinset, ← hns]
  refine ⟨fun many => failedFrom_execResolveT ?_, fun f one high => failedFrom_execResolveT ?_, fun f h => ?_⟩
  · rw [List.toFinset_card_of_nodup nodup] at many
    exact foreground.trans (resolveTile_of_many many)
  · rw [foreground, eq_singleton_of_toFinset nodup one, resolveTile_singleton, if_pos high]
  · have resolved : resolveTile ns = .ok f := by
      obtain ⟨one, low⟩ | ⟨none, rfl⟩ := h
      · rw [eq_singleton_of_toFinset nodup one, resolveTile_singleton, if_neg (Nat.not_lt.2 low)]
      · rw [(List.toFinset_eq_empty_iff ns).1 none, resolveTile_nil]
    exact ⟨_, _, execResolveT_of_ok (foreground.trans resolved), distinct_nodup img, distinct_toFinset img,
      nonShared_eq_filter _ _ _ _⟩

end Sys2Proof.Machine
end

section
/-! PROOFS. The Pixel Packer: the bytes PACK appends and when it fails, and the round trip from the packed output back to
the image (spec/42_pixel_packer.md R170 to R178). -/

namespace Sys2Proof.Machine

/-! ### Lanes -/

/-- A byte is the sum of its four lanes (R91, R172). -/
theorem byte_eq_sum_of_lanes (v : Byte) :
    v.toNat = (laneOf v 0).toNat * 64 + (laneOf v 1).toNat * 16 + (laneOf v 2).toNat * 4 + (laneOf v 3).toNat := by
  have := v.isLt
  simp only [laneOf, BitVec.extractLsb'_toNat, Nat.shiftRight_eq_div_pow]
  omega

theorem indexOf_eq_findIdx (s : List Idx) (v : Idx) : indexOf s v = s.findIdx (· == v) := by
  induction s with
  | nil => rfl
  | cons a l ih => simp only [indexOf, List.findIdx_cons, ih, beq_eq_decide, Bool.cond_decide]

/-- Settles O32: the packed byte is the sum of the four codes, and the lanes of such a sum are the codes. -/
theorem packedByteIsTheSumOfItsLanes : Obligations.PackedByteIsTheSumOfItsLanes := by
  intro t p0 p1 p2 p3 h0 h1 h2 h3
  refine ⟨_, packGroup_eq_some h0 h1 h2 h3, byte_eq_sum_of_lanes _, ?_⟩
  simp only [← indexOf_eq_findIdx]
  exact laneOf_sum _ (indexOf_lt h0) _ (indexOf_lt h1) _ (indexOf_lt h2) _ (indexOf_lt h3)

/-- No position below a lane's code holds its pixel (R173). -/
theorem get_ne_of_lt_lane {t : ColorTable} {c j : BitVec 2} {p : Idx} (hp : p ∈ t.toList)
    (h : c.toNat = indexOf t.toList p) (hj : j < c) : t.get j ≠ p :=
  getD_ne_of_lt_indexOf hp (h ▸ hj)

/-- Each lane of a PackedBlock holds the lowest position of its pixel (R171, R173). -/
theorem packBlock_lane {read : Nat → Nat → Idx} {t : ColorTable} {b : Block} {vs : List Byte} {r g i : Nat}
    (packed : packBlock read t b = some vs) (hr : r < b.h) (hg : g < b.w / 4) (hi : i < 4) :
    ∃ v, vs[r * (b.w / 4) + g]? = some v ∧
      t.get (v.extractLsb' (6 - 2 * i) 2) = read (b.x0 + 4 * g + i) (b.y0 + r) ∧
      ∀ j : BitVec 2, j < v.extractLsb' (6 - 2 * i) 2 → t.get j ≠ read (b.x0 + 4 * g + i) (b.y0 + r) := by
  obtain ⟨v, hv, group⟩ := packBlock_getElem? packed hr hg
  obtain ⟨mem, code⟩ := packAt_lane group hi
  exact ⟨v, hv, get_of_lane mem code, fun j => get_ne_of_lt_lane mem code⟩

/-! ### PACK -/

/-- CT covers a block when it holds the pixel of every cell of the block's rectangle. -/
theorem covers_iff {s : State} {b : Block} :
    Covers s b ↔
      ∀ x y, b.x0 ≤ x → x < b.x0 + b.w → b.y0 ≤ y → y < b.y0 + b.h → pixRead s x y ∈ s.ct.toList := by
  simp only [Covers, mem_blockPixels]
  constructor
  · exact fun covers x y hx hx' hy hy' => covers _ ⟨x, y, hx, hx', hy, hy', rfl⟩
  · rintro cells _ ⟨x, y, hx, hx', hy, hy', rfl⟩
    exact cells x y hx hx' hy hy'

/-- Settles O31: a missing pixel is a pixel of the block that CT does not hold, so there is no PackedBlock. -/
theorem packRaisesColorNotInTable : Obligations.PackRaisesColorNotInTable := by
  rintro m s b x y rfl hx hx' hy hy' missing
  rcases execPack_cases m s with ⟨-, e⟩ | ⟨bytes, packed, -⟩
  · exact ⟨_, e, raise_failedFrom _ _ s⟩
  · have noBlock := (packBlock_eq_none (blockOf_width m _ _ _)).2
      ⟨_, mem_blockPixels.2 ⟨x, y, hx, hx', hy, hy', rfl⟩, missing⟩
    cases noBlock.symm.trans packed

/-- Settles O30: every byte of the PackedBlock is the byte of its group, whose lanes hold the lowest positions. -/
theorem packAppendsTheBlock : Obligations.PackAppendsTheBlock := by
  intro m s b hb inTable
  obtain rfl : b = blockOf m s.imgW s.imgH s.blk := by cases m <;> exact hb
  obtain ⟨bytes, packed, runs⟩ := execPack_of_covers (covers_iff.2 inTable)
  have length := (packBlock_length packed).trans (Nat.mul_comm _ _)
  have lanes := fun r g i hr hg hi => packBlock_lane (r := r) (g := g) (i := i) packed hr hg hi
  rcases afterPack_cases m (appendPix s bytes) with ⟨rfl, more, e⟩ | ⟨rfl, last, e⟩ | ⟨rfl, e⟩ <;> rw [e] at runs
  · exact ⟨bytes, _, _, runs, (if_pos more).symm, length, lanes⟩
  · exact ⟨bytes, _, _, runs, (if_neg (Nat.not_lt.2 last)).symm, length, lanes⟩
  · exact ⟨bytes, _, _, runs, rfl, length, lanes⟩

/-- A conversion at PACK has every pixel of its block in CT (R177). -/
theorem BusyInv.covers_block {s : State} (h : BusyInv s) (hp : s.phase = .pack) :
    Covers s (blockOf s.mode s.imgW s.imgH s.blk) := by
  cases hm : s.mode with
  | sprite =>
    obtain ⟨-, -, position⟩ := h.sprite hm
    simp only [hp] at position
    obtain ⟨⟨hw, -⟩, hk, -, covers⟩ := position
    exact fun p mem => covers p (mem_image_of_mem_blockS hw hk mem)
  | tileset =>
    obtain ⟨-, position⟩ := h.tileset hm
    simp only [hp] at position
    obtain ⟨-, -, -, -, -, covers⟩ := position
    exact covers

@[simp] theorem afterPack_life (m : Mode) (s : State) : (afterPack m s).life = s.life := by
  rcases afterPack_cases m s with ⟨-, -, e⟩ | ⟨-, -, e⟩ | ⟨-, e⟩ <;> rw [e] <;> rfl

@[simp] theorem afterPack_err (m : Mode) (s : State) : (afterPack m s).err = s.err := by
  rcases afterPack_cases m s with ⟨-, -, e⟩ | ⟨-, -, e⟩ | ⟨-, e⟩ <;> rw [e] <;> rfl

/-- Settles O39: the invariant says that CT holds every pixel of the block. -/
theorem packNeverFailsInAConversion : Obligations.PackNeverFailsInAConversion := by
  intro s h busy hp
  obtain ⟨bytes, -, runs⟩ := execPack_of_covers ((h.busy busy).covers_block hp)
  exact ⟨_, runs, by simpa using busy, by simpa using (h.busy busy).err⟩

/-! ### Reading one pixel back -/

/-- The lane of a pixel decodes to it (R76, R178): the pixel of row `r` and column `i` of a block. -/
theorem packBlock_decodes {read : Nat → Nat → Idx} {t : ColorTable} {b : Block} {vs : List Byte} {r i : Nat}
    (packed : packBlock read t b = some vs) (hw : b.w % 4 = 0) (hr : r < b.h) (hi : i < b.w) :
    ∃ v, vs[r * (b.w / 4) + i / 4]? = some v ∧
      t.get (v.extractLsb' (6 - 2 * (i % 4)) 2) = read (b.x0 + i) (b.y0 + r) := by
  obtain ⟨v, hv, decodes, -⟩ := packBlock_lane packed hr (g := i / 4) (by omega) (Nat.mod_lt i (by decide))
  rw [Nat.add_assoc, Nat.div_add_mod] at decodes
  exact ⟨v, hv, decodes⟩

/-- Blocks of equal length laid end to end: element `k * n + i` is element `i` of block `k`. -/
theorem getElem?_flatten_of_length {α : Type} {L : List (List α)} {l : List α} {n k i : Nat}
    (size : ∀ l ∈ L, l.length = n) (hk : L[k]? = some l) (hi : i < n) : L.flatten[k * n + i]? = l[i]? := by
  induction L generalizing k with
  | nil => cases hk
  | cons a L ih =>
    obtain ⟨ha, size⟩ := List.forall_mem_cons.1 size
    cases k with
    | zero =>
      obtain rfl : a = l := Option.some.inj hk
      rw [List.flatten_cons, Nat.zero_mul, Nat.zero_add, List.getElem?_append_left (ha.symm ▸ hi)]
    | succ k =>
      have past : (k + 1) * n + i - a.length = k * n + i := by rw [ha, Nat.succ_mul]; omega
      rw [List.flatten_cons, List.getElem?_append_right (by rw [ha, Nat.succ_mul]; omega), past]
      exact ih size hk

/-- What a loop over the numbers below `n` collected for number `k`. -/
theorem exists_getElem?_of_range_map {α β : Type} {f : Nat → β} {mk : α → β} {rs : List α} {n k : Nat}
    (h : (List.range n).map f = rs.map mk) (hk : k < n) : ∃ r, rs[k]? = some r ∧ f k = mk r := by
  have at_k := congrArg (·[k]?) h
  simp only [List.getElem?_map, List.getElem?_range hk, Option.map_some] at at_k
  obtain ⟨r, hr, e⟩ := Option.map_eq_some_iff.1 at_k.symm
  exact ⟨r, hr, e.symm⟩

/-- Whatever a loop collected is what it gave for one of its elements. -/
theorem exists_of_mem_map {α β : Type} {f : Nat → β} {mk : α → β} {ks : List Nat} {rs : List α} {r : α}
    (h : ks.map f = rs.map mk) (hr : r ∈ rs) : ∃ k, f k = mk r := by
  obtain ⟨k, -, e⟩ := List.mem_map.1 (h ▸ List.mem_map_of_mem (f := mk) hr)
  exact ⟨k, e⟩

/-! ### Sprites -/

theorem packBlock_blockS_length {read : Nat → Nat → Idx} {t : ColorTable} {h k : Nat} {vs : List Byte}
    (packed : packBlock read t (blockS h k) = some vs) : vs.length = 3 * h := by
  rw [packBlock_length packed, Nat.mul_comm]
  simp only [blockS]

/-- Pixel `(x, y)` read back from its frame (R76, R121, R178). -/
theorem packBlock_blockS_decodes {read : Nat → Nat → Idx} {t : ColorTable} {h x y : Nat} {vs : List Byte}
    (packed : packBlock read t (blockS h (x / 12)) = some vs) (hy : y < h) :
    ∃ v, vs[3 * y + x % 12 / 4]? = some v ∧ t.get (v.extractLsb' (6 - 2 * (x % 4)) 2) = read x y := by
  have decodes := packBlock_decodes packed (r := y) (i := x % 12) (blockOf_width .sprite 0 h _) hy
    (Nat.mod_lt x (by decide))
  simpa only [blockS, Nat.reduceDiv, Nat.mul_comm y, Nat.div_add_mod, Nat.zero_add,
    Nat.mod_mod_of_dvd x (by decide : 4 ∣ 12)] using decodes

/-- The sprite loop of `Convert` appends the PackedBlocks of its frames in order (R171, R211). -/
theorem convertFrames_eq_ok {g : Nat → Nat → Idx} {h : Nat} {ct : ColorTable} {ks : List Nat} {pix out : List Byte}
    (ok : convertFrames g h ct ks pix = .ok out) :
    ∃ blocks : List (List Byte), ks.map (fun k => packBlock g ct (blockS h k)) = blocks.map some ∧
      out = pix ++ blocks.flatten := by
  induction ks generalizing pix with
  | nil => cases ok; exact ⟨[], rfl, by simp⟩
  | cons k l ih =>
    cases packed : packBlock g ct (blockS h k) with
    | none => rw [convertFrames_cons_none l pix packed] at ok; cases ok
    | some bytes =>
      rw [convertFrames_cons_some l pix packed] at ok
      obtain ⟨blocks, all, rfl⟩ := ih ok
      exact ⟨bytes :: blocks, by simp [packed, all], by simp⟩

/-- A sprite conversion that succeeds has an exact grid of frames and packs them under one table (R211). -/
theorem convertSprite_eq_ok {c : ConvConfig} {g : Nat → Nat → Idx} {o : ConvOutput} (ok : convertSprite c g = .ok o) :
    c.w % 12 = 0 ∧ o.bpb = 3 * c.h ∧ convertFrames g c.h o.ct (List.range (c.w / 12)) [] = .ok o.pixOut := by
  unfold convertSprite at ok
  rcases splitSprite_cases c.w c.h with ⟨-, e⟩ | ⟨hw, -, e⟩ <;> simp only [e] at ok
  · cases ok
  · split at ok
    · cases ok
    · split at ok
      · cases ok
      · next pix frames =>
        cases ok
        exact ⟨hw, rfl, frames⟩

/-- Settles O47: the output is the frames' PackedBlocks end to end, and the pixel's lane in its frame decodes to it. -/
theorem spriteOutputDecodesToTheImage : Obligations.SpriteOutputDecodesToTheImage := by
  intro c g o hm ok x y hx hy
  simp only [convert, hm] at ok
  obtain ⟨hw, hbpb, frames⟩ := convertSprite_eq_ok ok
  obtain ⟨blocks, all, hout⟩ := convertFrames_eq_ok frames
  obtain ⟨vs, hvs, packed⟩ := exists_getElem?_of_range_map all (show x / 12 < c.w / 12 by omega)
  have size : ∀ l ∈ blocks, l.length = 3 * c.h := by
    intro l hl
    obtain ⟨k, hk⟩ := exists_of_mem_map all hl
    exact packBlock_blockS_length hk
  obtain ⟨v, hv, decodes⟩ := packBlock_blockS_decodes packed hy
  refine ⟨v, ?_, decodes⟩
  rw [hout, hbpb, List.nil_append, Nat.add_assoc, getElem?_flatten_of_length size hvs (by omega), hv]

/-! ### Tilesets -/

theorem packBlock_blockT_length {read : Nat → Nat → Idx} {t : ColorTable} {w k : Nat} {vs : List Byte}
    (packed : packBlock read t (blockT w k) = some vs) : vs.length = 8 := by
  rw [packBlock_length packed]
  simp only [blockT]

/-- Pixel `(x, y)` read back from its tile (R76, R123, R178). -/
theorem packBlock_blockT_decodes {read : Nat → Nat → Idx} {t : ColorTable} {w k x y : Nat} {vs : List Byte}
    (packed : packBlock read t (blockT w k) = some vs) (row : k / (w / 4) = y / 8) (col : k % (w / 4) = x / 4) :
    ∃ v, vs[y % 8]? = some v ∧ t.get (v.extractLsb' (6 - 2 * (x % 4)) 2) = read x y := by
  have decodes := packBlock_decodes packed (r := y % 8) (i := x % 4) (blockOf_width .tileset w 0 k)
    (Nat.mod_lt y (by decide)) (Nat.mod_lt x (by decide))
  have first : x % 4 / 4 = 0 := by omega
  simpa only [blockT, row, col, first, Nat.reduceDiv, Nat.mul_one, Nat.add_zero, Nat.div_add_mod, Nat.mod_mod]
    using decodes

/-- The tileset loop of `Convert` appends the bytes of ATTR and the PackedBlocks of its tiles in order (R211). -/
theorem convertTiles_eq_ok {c : ConvConfig} {g : Nat → Nat → Idx} {ks : List Nat} {acc o : ConvOutput}
    (ok : convertTiles c g ks acc = .ok o) :
    ∃ tiles : List (ColorTable × Idx × List Byte), ks.map (convertTile c g) = tiles.map .ok ∧
      o.attrOut = acc.attrOut ++ tiles.map (fun r => attrByte r.2.1) ∧
      o.pixOut = acc.pixOut ++ (tiles.map fun r => r.2.2).flatten := by
  induction ks generalizing acc with
  | nil => cases ok; exact ⟨[], rfl, by simp, by simp⟩
  | cons k l ih =>
    cases tile : convertTile c g k with
    | error e => rw [convertTiles_cons_error l acc tile] at ok; cases ok
    | ok r =>
      rw [convertTiles_cons_ok l acc tile] at ok
      obtain ⟨tiles, all, attr, pix⟩ := ih ok
      exact ⟨r :: tiles, by simp [tile, all], by simp [attr], by simp [pix]⟩

/-- A tile converts to its packed bytes under the shared colours and a foreground in 0..7 (R153, R211). -/
theorem convertTile_eq_ok {c : ConvConfig} {g : Nat → Nat → Idx} {k : Nat} {r : ColorTable × Idx × List Byte}
    (ok : convertTile c g k = .ok r) :
    r.2.1.toNat ≤ 7 ∧ packBlock g ⟨c.sh0, c.sh1, c.sh2, r.2.1⟩ (blockT c.w k) = some r.2.2 := by
  rcases convertTile_cases c g k with ⟨_, -, e⟩ | ⟨_, -, -, e⟩ | ⟨fg, bytes, resolved, packed, e⟩ <;>
    cases e.symm.trans ok
  exact ⟨(resolveTile_ok resolved).2.2, packed⟩

/-- A tileset conversion that succeeds and emits attributes has an exact grid of tiles and is their loop (R211). -/
theorem convertTileset_eq_ok {c : ConvConfig} {g : Nat → Nat → Idx} {o : ConvOutput} (attrEn : c.attrEn = true)
    (ok : convertTileset c g = .ok o) :
    c.w % 4 = 0 ∧ c.h % 8 = 0 ∧ convertTiles c g (List.range (c.w / 4 * (c.h / 8)))
      ⟨[], [], c.w / 4 * (c.h / 8), 8, ⟨0, 0, 0, 0⟩, 0⟩ = .ok o := by
  unfold convertTileset at ok
  rcases splitTileset_cases c.w c.h with ⟨-, e⟩ | ⟨-, -, -, e⟩ | ⟨hw, hh, -, e⟩ <;> simp only [e, attrEn] at ok
  · cases ok
  · cases ok
  · split at ok
    · cases ok
    · next tiles => cases ok; exact ⟨hw, hh, tiles⟩

/-- ATTR's byte of a foreground in 0..7 is in 8..15 and gives the foreground back (R93, R186). -/
theorem attrByte_spec {fg : Idx} (h : fg.toNat ≤ 7) :
    8 ≤ (attrByte fg).toNat ∧ (attrByte fg).toNat ≤ 15 ∧ attrByte fg - 8#8 = fg := by
  have range := AttrRange.snoc (l := []) nofun h (attrByte fg) (by simp)
  exact ⟨range.1, range.2, BitVec.add_sub_cancel fg 8#8⟩

/-- Settles O48: the output is the tiles' PackedBlocks end to end, and the pixel's lane in its tile decodes to it through
the table that the tile's byte of ATTR_OUT gives. -/
theorem tilesetOutputDecodesToTheImage : Obligations.TilesetOutputDecodesToTheImage := by
  intro c g o hm attrEn ok x y k hx hy hk
  simp only [convert, hm] at ok
  obtain ⟨hw, hh, loop⟩ := convertTileset_eq_ok attrEn ok
  obtain ⟨tiles, all, hattr, hout⟩ := convertTiles_eq_ok loop
  have col : x / 4 < c.w / 4 := by omega
  have place : k = x / 4 + c.w / 4 * (y / 8) := by rw [hk, Nat.mul_comm, Nat.add_comm]
  have inGrid : k < c.w / 4 * (c.h / 8) := place ▸ rowMajor_lt col (by omega)
  obtain ⟨tileRow, tileCol⟩ := (rowMajor_iff col).2 place
  obtain ⟨r, hr, tile⟩ := exists_getElem?_of_range_map all inGrid
  obtain ⟨low, packed⟩ := convertTile_eq_ok tile
  obtain ⟨ge, le, table⟩ := attrByte_spec low
  have size : ∀ l ∈ tiles.map (fun r => r.2.2), l.length = 8 := by
    rintro _ hl
    obtain ⟨r', hr', rfl⟩ := List.mem_map.1 hl
    obtain ⟨k', hk'⟩ := exists_of_mem_map all hr'
    exact packBlock_blockT_length (convertTile_eq_ok hk').2
  have hvs : (tiles.map fun r => r.2.2)[k]? = some r.2.2 := by simp [hr]
  obtain ⟨v, hv, decodes⟩ := packBlock_blockT_decodes packed tileRow tileCol
  refine ⟨v, attrByte r.2.1, ?_, by simp [hattr, hr], ge, le, table.symm ▸ decodes⟩
  rw [hout, List.nil_append, Nat.mul_comm 8, getElem?_flatten_of_length size hvs (Nat.mod_lt y (by decide)), hv]

end Sys2Proof.Machine
end

section
/-! PROOFS. The Tile Attribute Deriver: the position ATTR moves to and the byte it stages
(spec/43_tile_attribute.md R185 to R188). -/

namespace Sys2Proof.Machine

/-- The whole state ATTR leaves, whatever ATTR_EN is: the byte staged, then one of R207's two positions. -/
theorem execAttr_eq (s : State) : execAttr s = .next (if s.blk + 1 < s.nblk
    then { s with attrStage := s.attrStage ++ [attrByte s.fg], phase := .resolve, blk := s.blk + 1 }
    else { s with attrStage := s.attrStage ++ [attrByte s.fg], phase := .emit, blk := 0 }) := by
  refine congrArg Host.Outcome.next ?_
  rcases afterAttr_cases (appendAttr s (attrByte s.fg)) with ⟨more, e⟩ | ⟨last, e⟩ <;> rw [e]
  · exact (if_pos more).symm
  · exact (if_neg (Nat.not_lt.2 last)).symm

/-- The addition has no carry out for a foreground in 0..7 (R186). -/
theorem attrByte_toNat {fg : Idx} (h : fg.toNat ≤ 7) : (attrByte fg).toNat = fg.toNat + 8 :=
  BitVec.toNat_add_of_lt (Nat.lt_of_le_of_lt (Nat.add_le_add_right h 8) (by decide))

/-- The byte's format (R93): the bias is bit 3, which the three bits of the foreground stay below. -/
theorem attrByte_eq_append {fg : Idx} (h : fg.toNat ≤ 7) : attrByte fg = 0b00001#5 ++ fg.extractLsb' 0 3 := by
  have low : (fg.extractLsb' 0 3).toNat = fg.toNat := by
    rw [BitVec.extractLsb'_toNat, Nat.shiftRight_zero, Nat.mod_eq_of_lt (Nat.lt_succ_of_le h)]
  apply BitVec.eq_of_toNat_eq
  calc (attrByte fg).toNat = 1 <<< 3 + fg.toNat := by rw [attrByte_toNat h, Nat.add_comm]; rfl
    _ = 1 <<< 3 ||| fg.toNat := Nat.shiftLeft_add_eq_or_of_lt (Nat.lt_succ_of_le h) 1
    _ = (0b00001#5 ++ fg.extractLsb' 0 3).toNat := by rw [BitVec.toNat_append, low]; rfl

/-- Settles O33: ATTR's state is `execAttr_eq`, and its byte for a foreground in 0..7 has the value and the format. -/
theorem attrAppendsTheAttributeByte : Obligations.AttrAppendsTheAttributeByte :=
  ⟨decode_encode .attr rfl, execAttr_eq, fun _ low => ⟨attrByte_toNat low, attrByte_eq_append low⟩⟩

end Sys2Proof.Machine
end

section
/-! PROOFS. The Encoder Output: the commit, and the attribute bytes each of its two operations commits
(spec/44_encoder_output.md R190, R191, R194). -/

namespace Sys2Proof.Machine

/-- The whole state a commit leaves: both output memories with their lengths, STATE and the position are written, and
nothing else. The two operations differ in the attribute bytes only. -/
theorem commit_eq (attrBytes : List Byte) (s : State) : commit attrBytes s = { s with
    pixOut := s.pixStage, attrOut := attrBytes, pixLen := s.pixStage.length, attrLen := attrBytes.length,
    life := .done, phase := .none, blk := 0 } := rfl

/-- The whole state EMIT.S leaves (R190). -/
theorem execEmitS_eq (s : State) : execEmitS s = .next { s with
    pixOut := s.pixStage, attrOut := [], pixLen := s.pixStage.length, attrLen := 0,
    life := .done, phase := .none, blk := 0 } :=
  congrArg Host.Outcome.next (commit_eq [] s)

/-- With attributes enabled EMIT.T commits the staged attribute bytes. -/
theorem execEmitT_of_attrEn {s : State} (enabled : s.attrEn = true) : execEmitT s = .next (commit s.attrStage s) := by
  rw [execEmitT, if_pos enabled]

/-- With attributes suppressed EMIT.T commits no attribute bytes, as EMIT.S does. -/
theorem execEmitT_of_not_attrEn {s : State} (suppressed : s.attrEn = false) : execEmitT s = execEmitS s := by
  rw [execEmitT, execEmitS, if_neg (Bool.eq_false_iff.1 suppressed)]

/-- Settles O34: EMIT.S is the commit of no attribute bytes. -/
theorem emitSpriteCommits : Obligations.EmitSpriteCommits :=
  ⟨decode_encode .emitS rfl, execEmitS_eq⟩

/-- Settles O35: the pixel bytes are those of the one commit, and ATTR_EN chooses the attribute bytes only. -/
theorem emitTilesetCommits : Obligations.EmitTilesetCommits := by
  refine ⟨decode_encode .emitT rfl, fun s => ⟨fun enabled => ?_, fun suppressed => ?_⟩⟩
  · exact (execEmitT_of_attrEn enabled).trans (congrArg Host.Outcome.next (commit_eq s.attrStage s))
  · exact (execEmitT_of_not_attrEn suppressed).trans (execEmitS_eq s)

end Sys2Proof.Machine
end

section
/-! PROOFS. The two commands, the codes that are none, and the positions the sequencer goes through
(spec/45_host_commands.md R205 to R209). -/

namespace Sys2Proof.Machine

/-! ### Reserved codes -/

/-- A code that is neither command's has no effect, BUSY or not (R42, R209). -/
theorem commandWrite_of_reserved {v : Nat} (h1 : v % 256 ≠ 1) (h2 : v % 256 ≠ 2) (s : State) :
    commandWrite v s = .next s := by
  have rejected : decodeCommand (BitVec.ofNat 8 v) = .error .reservedCommand :=
    decodeCommand_of_reserved (fun e => h1 (by simpa using congrArg BitVec.toNat e))
      fun e => h2 (by simpa using congrArg BitVec.toNat e)
  unfold commandWrite
  split
  · rfl
  · rw [rejected]

/-- Settles O6: a write to register 0 is `commandWrite`, whose only effects are those of the two commands. -/
theorem reservedCommandChangesNothing : Obligations.ReservedCommandChangesNothing :=
  fun s q _ hq h1 h2 => (step_eq_hostTurn hq).trans (commandWrite_of_reserved h1 h2 { s with host := q })

/-! ### CONV -/

theorem execConv_of_busy {s : State} (h : s.life = .busy) : execConv s = .next s := if_pos h

theorem execConv_of_legal {s : State} (hl : s.life ≠ .busy) (legal : LegalConfig s) :
    execConv s = .next (startConversion s) := by
  rw [execConv, if_neg hl, convRefusal_eq_none.2 legal]

theorem startConversion_cleared (s : State) : Cleared (startConversion s) := { clearResults_cleared s with }

/-- Settles O19: what CONV starts is `startConversion`, and like every operation it leaves the inputs alone. -/
theorem convStartsAConversion : Obligations.ConvStartsAConversion := by
  refine ⟨decode_encode .conv rfl, fun s => ⟨execConv_of_busy, fun hl legal => ?_⟩⟩
  have runs : exec .conv s = .next (startConversion s) := execConv_of_legal hl legal
  have same := exec_sameInputs runs
  exact ⟨_, runs, rfl, rfl, rfl, rfl, rfl, startConversion_cleared s, same, congrFun₂ same.pixRead⟩

/-! ### CLR -/

theorem execClr_of_busy {s : State} (h : s.life = .busy) : execClr s = .next s := if_pos h

theorem execClr_of_not_busy {s : State} (h : s.life ≠ .busy) : execClr s = .next (releaseResults s) := if_neg h

theorem releaseResults_cleared (s : State) : Cleared (releaseResults s) := { clearResults_cleared s with }

/-- An IDLE block holds nothing that CLR could release (R26, R53). -/
theorem releaseResults_of_idle {s : State} (hl : s.life = .idle) (h : IdleInv s) : releaseResults s = s := by
  obtain ⟨cleared, phase, blk, err, errIdx⟩ := h
  obtain ⟨nblk, bpb, ct, fg, attrLen, pixLen, attrOut, pixOut, attrStage, pixStage, seen, tset, ns⟩ := cleared
  cases s
  simp_all only [releaseResults, clearResults, setPos]

/-- Settles O21: what CLR leaves is `releaseResults`, which is the block itself when it is IDLE. -/
theorem clrReleasesTheResults : Obligations.ClrReleasesTheResults := by
  refine ⟨decode_encode .clr rfl, fun s => ⟨execClr_of_busy, fun hl => ?_, fun idle inv => ?_⟩⟩
  · have runs : exec .clr s = .next (releaseResults s) := execClr_of_not_busy hl
    have same := exec_sameInputs runs
    exact ⟨_, runs, rfl, rfl, rfl, rfl, rfl, releaseResults_cleared s, same, congrFun₂ same.pixRead⟩
  · have idleBlock : releaseResults s = s := releaseResults_of_idle idle (inv.idle idle)
    exact (execClr_of_not_busy (by simp [idle])).trans (congrArg Host.Outcome.next idleBlock)

/-! ### The fixed sequence -/

/-- A splitter that does not fail moves to `(RESOLVE, 0)` (R120, R122). -/
theorem storeSplit_position {r : Except FailKind (Nat × Nat)} {s : State} (h : (storeSplit r s).life ≠ .failed) :
    ((storeSplit r s).phase, (storeSplit r s).blk) = (.resolve, 0) := by
  cases r with
  | error k => exact absurd rfl h
  | ok nb => rfl

/-- Settles O7: each operation either fails or writes the next position, whatever the pixels are. -/
theorem sequencerFollowsTheFixedSequence : Obligations.SequencerFollowsTheFixedSequence := by
  rintro s t - ⟨i, selected, runs⟩ ok
  cases atPosition_of_selected selected with
  | splitS hm hp => cases runs; simpa only [hp] using storeSplit_position ok
  | splitT hm hp => cases runs; simpa only [hp] using storeSplit_position ok
  | resolveS hm hp =>
    rcases execResolveS_cases s with ⟨k, -, e⟩ | ⟨u, -, e⟩ <;> cases e.symm.trans runs
    · exact absurd rfl ok
    · simp only [hm, hp]
  | resolveT hm hp =>
    rcases execResolveT_foreground s with ⟨k, -, e⟩ | ⟨tset, ns, fg, -, e⟩ <;> cases e.symm.trans runs
    · exact absurd rfl ok
    · simp only [hm, hp]
  | packS hm hp =>
    rcases execPack_cases .sprite s with ⟨-, e⟩ | ⟨bytes, -, e⟩ <;> cases e.symm.trans runs
    · exact absurd rfl ok
    · simp only [hm, hp]
      rcases afterPack_cases .sprite (appendPix s bytes) with ⟨-, more, e⟩ | ⟨-, last, e⟩ | ⟨hc, -⟩
      · rw [e]; exact (if_pos more).symm
      · rw [e]; exact (if_neg (Nat.not_lt.2 last)).symm
      · cases hc
  | packT hm hp =>
    rcases execPack_cases .tileset s with ⟨-, e⟩ | ⟨bytes, -, e⟩ <;> cases e.symm.trans runs
    · exact absurd rfl ok
    · simp only [hm, hp]; rfl
  | attr hm hp =>
    cases runs
    simp only [hp]
    rcases afterAttr_cases (appendAttr s (attrByte s.fg)) with ⟨more, e⟩ | ⟨last, e⟩ <;> rw [e]
    · exact (if_pos more).symm
    · exact (if_neg (Nat.not_lt.2 last)).symm
  | emitS hm hp => cases runs; simp only [hp]; rfl
  | emitT hm hp => cases runs; simp only [hp]; rfl

end Sys2Proof.Machine
end

section
/-! PROOFS. A conversion in progress against `Convert`: what it still gives at each position, how many operations are
left, and what `Convert` does with one block (spec/45_host_commands.md R206, R207, R211, R212). -/

namespace Sys2Proof.Machine

/-! ### What a conversion still gives -/

/-- The blocks after BLK. -/
def State.blocksAfter (s : State) : List Nat := List.range' (s.blk + 1) (s.nblk - (s.blk + 1))

/-- BLK and the blocks after it, when BLK is the first of `n` blocks. -/
theorem zero_cons_blocksAfter {s : State} {n : Nat} (hb : s.blk = 0) (hn : s.nblk = n) (pos : 1 ≤ n) :
    0 :: s.blocksAfter = List.range n := by
  obtain ⟨m, rfl⟩ := Nat.exists_eq_add_of_le' pos
  rw [State.blocksAfter, hb, hn, List.range_eq_range', List.range'_succ, Nat.zero_add, Nat.add_sub_cancel]

theorem blocksAfter_of_last {s : State} (last : s.nblk ≤ s.blk + 1) : s.blocksAfter = [] := by
  rw [State.blocksAfter, Nat.sub_eq_zero_of_le last, List.range'_zero]

theorem blocksAfter_of_more {s : State} (more : s.blk + 1 < s.nblk) (p : Phase) :
    s.blocksAfter = (s.blk + 1) :: (setPos s p (s.blk + 1)).blocksAfter := by
  simp only [State.blocksAfter, setPos_blk, setPos_nblk]
  rw [show s.nblk - (s.blk + 1) = s.nblk - (s.blk + 1 + 1) + 1 by omega, List.range'_succ]

/-- What a sprite conversion gives that has the frames `ks` left to pack under CT. -/
def State.withFrames (s : State) (ks : List Nat) : Except ConvFailure ConvOutput :=
  (convertFrames (pixRead s) s.imgH s.ct ks s.pixStage).map fun pix => ⟨[], pix, s.nblk, s.bpb, s.ct, s.fg⟩

/-- What a tileset conversion gives that has the tiles `ks` left. -/
def State.withTiles (s : State) (ks : List Nat) : Except ConvFailure ConvOutput :=
  (convertTiles s.convConfig (pixRead s) ks ⟨s.attrStage, s.pixStage, s.nblk, s.bpb, s.ct, s.fg⟩).map fun o =>
    { o with attrOut := if s.attrEn then o.attrOut else [] }

/-- What the conversion in progress still gives: `Convert` from the position on, after what is staged. The last arm is
of positions that no conversion stands at. -/
def State.remaining (s : State) : Except ConvFailure ConvOutput :=
  match s.mode, s.phase with
  | .sprite, .split => convertSprite s.convConfig (pixRead s)
  | .sprite, .resolve =>
    match resolveSprite (imageColours s) (tcOperand s) (scOperand s) with
    | .error k => .error ⟨k, .resolve, 0⟩
    | .ok t => State.withFrames { s with ct := ColorTable.ofList t } (0 :: (setPos s .pack 0).blocksAfter)
  | .sprite, .pack => s.withFrames (s.blk :: s.blocksAfter)
  | .sprite, .emit => s.withFrames []
  | .tileset, .split => convertTileset s.convConfig (pixRead s)
  | .tileset, .resolve => s.withTiles (s.blk :: s.blocksAfter)
  | .tileset, .pack =>
    match packBlock (pixRead s) s.ct (blockT s.imgW s.blk) with
    | none => .error ⟨.colorNotInTable, .pack, s.blk⟩
    | some bytes => (appendAttr (appendPix s bytes) (attrByte s.fg)).withTiles s.blocksAfter
  | .tileset, .attr => (appendAttr s (attrByte s.fg)).withTiles s.blocksAfter
  | .tileset, .emit => s.withTiles []
  | _, .none | .sprite, .attr => .error ⟨.decodeFailure, .none, 0⟩

section positions

variable {s : State}

theorem remaining_spriteSplit (hm : s.mode = .sprite) (hp : s.phase = .split) :
    s.remaining = convertSprite s.convConfig (pixRead s) := by
  simp only [State.remaining, hm, hp]

theorem remaining_spriteResolve_error {k : FailKind} (hm : s.mode = .sprite) (hp : s.phase = .resolve)
    (hr : resolveSprite (imageColours s) (tcOperand s) (scOperand s) = .error k) :
    s.remaining = .error ⟨k, .resolve, 0⟩ := by
  simp only [State.remaining, hm, hp, hr]

theorem remaining_spriteResolve_ok {t : List Idx} (hm : s.mode = .sprite) (hp : s.phase = .resolve)
    (hr : resolveSprite (imageColours s) (tcOperand s) (scOperand s) = .ok t) :
    s.remaining =
      State.withFrames { s with ct := ColorTable.ofList t } (0 :: (setPos s .pack 0).blocksAfter) := by
  simp only [State.remaining, hm, hp, hr]

theorem remaining_spritePack (hm : s.mode = .sprite) (hp : s.phase = .pack) :
    s.remaining = s.withFrames (s.blk :: s.blocksAfter) := by
  simp only [State.remaining, hm, hp]

theorem remaining_spriteEmit (hm : s.mode = .sprite) (hp : s.phase = .emit) : s.remaining = s.withFrames [] := by
  simp only [State.remaining, hm, hp]

theorem remaining_tileSplit (hm : s.mode = .tileset) (hp : s.phase = .split) :
    s.remaining = convertTileset s.convConfig (pixRead s) := by
  simp only [State.remaining, hm, hp]

theorem remaining_tileResolve (hm : s.mode = .tileset) (hp : s.phase = .resolve) :
    s.remaining = s.withTiles (s.blk :: s.blocksAfter) := by
  simp only [State.remaining, hm, hp]

theorem remaining_tilePack_none (hm : s.mode = .tileset) (hp : s.phase = .pack)
    (packed : packBlock (pixRead s) s.ct (blockT s.imgW s.blk) = none) :
    s.remaining = .error ⟨.colorNotInTable, .pack, s.blk⟩ := by
  simp only [State.remaining, hm, hp, packed]

theorem remaining_tilePack_some {bytes : List Byte} (hm : s.mode = .tileset) (hp : s.phase = .pack)
    (packed : packBlock (pixRead s) s.ct (blockT s.imgW s.blk) = some bytes) :
    s.remaining = (appendAttr (appendPix s bytes) (attrByte s.fg)).withTiles s.blocksAfter := by
  simp only [State.remaining, hm, hp, packed]

theorem remaining_tileAttr (hm : s.mode = .tileset) (hp : s.phase = .attr) :
    s.remaining = (appendAttr s (attrByte s.fg)).withTiles s.blocksAfter := by
  simp only [State.remaining, hm, hp]

theorem remaining_tileEmit (hm : s.mode = .tileset) (hp : s.phase = .emit) : s.remaining = s.withTiles [] := by
  simp only [State.remaining, hm, hp]

end positions

/-! ### How many operations are left -/

/-- At most how many operations the conversion in progress runs before its last one: at the split three for each pixel,
since a block has at least one, and afterwards those of the blocks from BLK on. -/
def State.operationsLeft (s : State) : Nat :=
  match s.mode, s.phase with
  | _, .split => 3 * (s.imgW * s.imgH) + 2
  | .sprite, .resolve => s.nblk - 1 + 2
  | .sprite, .pack => s.nblk - (s.blk + 1) + 1
  | .tileset, .resolve => 3 * (s.nblk - (s.blk + 1)) + 3
  | .tileset, .pack => 3 * (s.nblk - (s.blk + 1)) + 2
  | .tileset, .attr => 3 * (s.nblk - (s.blk + 1)) + 1
  | _, .emit | _, .none | .sprite, .attr => 0

section positions

variable {s : State}

theorem operationsLeft_split (hp : s.phase = .split) : s.operationsLeft = 3 * (s.imgW * s.imgH) + 2 := by
  simp only [State.operationsLeft, hp]

theorem operationsLeft_spriteResolve (hm : s.mode = .sprite) (hp : s.phase = .resolve) :
    s.operationsLeft = s.nblk - 1 + 2 := by
  simp only [State.operationsLeft, hm, hp]

theorem operationsLeft_spritePack (hm : s.mode = .sprite) (hp : s.phase = .pack) :
    s.operationsLeft = s.nblk - (s.blk + 1) + 1 := by
  simp only [State.operationsLeft, hm, hp]

theorem operationsLeft_tileResolve (hm : s.mode = .tileset) (hp : s.phase = .resolve) :
    s.operationsLeft = 3 * (s.nblk - (s.blk + 1)) + 3 := by
  simp only [State.operationsLeft, hm, hp]

theorem operationsLeft_tilePack (hm : s.mode = .tileset) (hp : s.phase = .pack) :
    s.operationsLeft = 3 * (s.nblk - (s.blk + 1)) + 2 := by
  simp only [State.operationsLeft, hm, hp]

theorem operationsLeft_tileAttr (hm : s.mode = .tileset) (hp : s.phase = .attr) :
    s.operationsLeft = 3 * (s.nblk - (s.blk + 1)) + 1 := by
  simp only [State.operationsLeft, hm, hp]

theorem operationsLeft_emit (hp : s.phase = .emit) : s.operationsLeft = 0 := by
  simp only [State.operationsLeft, hp]

end positions

/-- With no more blocks than pixels there are fewer operations left after the split than before it. -/
theorem operationsLeft_lt_of_nblk_le {s : State} {n : Nat} (hp : s.phase ≠ .split) (hn : s.nblk ≤ n) (pos : 1 ≤ n) :
    s.operationsLeft < 3 * n + 2 := by
  unfold State.operationsLeft
  split
  case h_1 h => exact absurd h hp
  all_goals omega

/-! ### One block of `Convert`'s loops -/

theorem withFrames_cons_none {s : State} {k : Nat} (packed : packBlock (pixRead s) s.ct (blockS s.imgH k) = none)
    (l : List Nat) : s.withFrames (k :: l) = .error ⟨.colorNotInTable, .pack, k⟩ := by
  rw [State.withFrames, convertFrames_cons_none l _ packed]
  rfl

theorem withFrames_cons_some {s : State} {k : Nat} {bytes : List Byte}
    (packed : packBlock (pixRead s) s.ct (blockS s.imgH k) = some bytes) (l : List Nat) :
    s.withFrames (k :: l) = (appendPix s bytes).withFrames l := by
  rw [State.withFrames, convertFrames_cons_some l _ packed]
  rfl

theorem withTiles_cons_error {s : State} {k : Nat} {e : FailKind} (unresolved : tileForeground s k = .error e)
    (l : List Nat) : s.withTiles (k :: l) = .error ⟨e, .resolve, k⟩ := by
  rcases convertTile_cases s.convConfig (pixRead s) k with ⟨_, h, tile⟩ | ⟨_, h, -⟩ | ⟨_, _, h, -⟩ <;>
    cases unresolved.symm.trans h
  rw [State.withTiles, convertTiles_cons_error l _ tile]
  rfl

/-- A tile that is resolved (R153) leaves to pack, and then to derive, what `Convert`'s loop does with it. -/
theorem remaining_resolvedTile {s : State} {fg : Idx} (hm : s.mode = .tileset)
    (resolved : tileForeground s s.blk = .ok fg) (tset ns : List Idx) :
    State.remaining { s with
      tset := tset, ns := ns, ct := ⟨s.sh0, s.sh1, s.sh2, fg⟩, fg := fg, phase := .pack, blk := s.blk } =
      s.withTiles (s.blk :: s.blocksAfter) := by
  rcases convertTile_cases s.convConfig (pixRead s) s.blk with
    ⟨_, h, -⟩ | ⟨_, h, packed, tile⟩ | ⟨_, bytes, h, packed, tile⟩ <;> cases resolved.symm.trans h
  · rw [State.withTiles, convertTiles_cons_error _ _ tile]
    exact remaining_tilePack_none hm rfl packed
  · rw [State.withTiles, convertTiles_cons_ok _ _ tile]
    exact remaining_tilePack_some hm rfl packed

/-! ### `Convert` after the split -/

section afterSplit

variable {c : ConvConfig} {g : Nat → Nat → Idx} {k : FailKind} {n b : Nat}

theorem convertSprite_of_split_error (split : splitSprite c.w c.h = .error k) :
    convertSprite c g = .error ⟨k, .split, 0⟩ := by
  simp only [convertSprite, split]

theorem convertSprite_of_unresolved (split : splitSprite c.w c.h = .ok (n, b))
    (unresolved : resolveSprite (distinct (blockPixels g (imageBlock c.w c.h))) c.tc c.sc = .error k) :
    convertSprite c g = .error ⟨k, .resolve, 0⟩ := by
  simp only [convertSprite, split, unresolved]

theorem convertSprite_of_resolved {t : List Idx} (split : splitSprite c.w c.h = .ok (n, b))
    (resolved : resolveSprite (distinct (blockPixels g (imageBlock c.w c.h))) c.tc c.sc = .ok t) :
    convertSprite c g = (convertFrames g c.h (ColorTable.ofList t) (List.range n) []).map fun pix =>
      ⟨[], pix, n, b, ColorTable.ofList t, 0⟩ := by
  simp only [convertSprite, split, resolved]
  cases convertFrames g c.h (ColorTable.ofList t) (List.range n) [] <;> rfl

theorem convertTileset_of_split_error (split : splitTileset c.w c.h = .error k) :
    convertTileset c g = .error ⟨k, .split, 0⟩ := by
  simp only [convertTileset, split]

theorem convertTileset_of_split (split : splitTileset c.w c.h = .ok (n, b)) :
    convertTileset c g = (convertTiles c g (List.range n) ⟨[], [], n, b, ⟨0, 0, 0, 0⟩, 0⟩).map fun o =>
      { o with attrOut := if c.attrEn then o.attrOut else [] } := by
  simp only [convertTileset, split]
  cases convertTiles c g (List.range n) ⟨[], [], n, b, ⟨0, 0, 0, 0⟩, 0⟩ <;> rfl

end afterSplit

/-- The frames of an exact grid are no more than the pixels (R120). -/
theorem splitSprite_count {w h n b : Nat} (split : splitSprite w h = .ok (n, b)) (hw : 1 ≤ w) (hh : 1 ≤ h) :
    1 ≤ n ∧ n ≤ w * h := by
  rcases splitSprite_cases w h with ⟨-, e⟩ | ⟨w12, -, e⟩ <;> cases e.symm.trans split
  exact ⟨by omega, (Nat.div_le_self w 12).trans (Nat.le_mul_of_pos_right w hh)⟩

/-- The tiles of an exact grid are no more than the pixels (R122). -/
theorem splitTileset_count {w h n b : Nat} (split : splitTileset w h = .ok (n, b)) (hw : 1 ≤ w) (hh : 1 ≤ h) :
    1 ≤ n ∧ n ≤ w * h := by
  rcases splitTileset_cases w h with ⟨-, e⟩ | ⟨-, -, -, e⟩ | ⟨w4, h8, -, e⟩ <;> cases e.symm.trans split
  exact ⟨Nat.mul_pos (by omega) (by omega), Nat.mul_le_mul (Nat.div_le_self w 4) (Nat.div_le_self h 8)⟩

end Sys2Proof.Machine
end

section
/-! PROOFS. A conversion from CONV to its end: every operation keeps what the conversion still gives and lowers the
number of operations left, so the run ends as `Convert` says (spec/45_host_commands.md R205 to R207, R211, R212). -/

namespace Sys2Proof.Machine

/-! ### The operations -/

/-- `t` is the block after a conversion of which `Convert` says `r` (R211): DONE with the output, or FAILED with the
failure and every result cleared. -/
def EndsAs (r : Except ConvFailure ConvOutput) (t : State) : Prop :=
  match r with
  | .ok o => t.life = .done ∧ t.phase = .none ∧ t.blk = 0 ∧ t.err = none ∧ t.errIdx = 0 ∧
      t.attrOut = o.attrOut ∧ t.pixOut = o.pixOut ∧ t.attrLen = o.attrOut.length ∧ t.pixLen = o.pixOut.length ∧
      t.nblk = o.nblk ∧ t.bpb = o.bpb ∧ t.ct = o.ct ∧ t.fg = o.fg
  | .error e => t.life = .failed ∧ t.err = some e.kind ∧ t.phase = e.phase ∧ t.errIdx = e.idx ∧ t.blk = 0 ∧ Cleared t

theorem EndsAs.life {r : Except ConvFailure ConvOutput} {t : State} (h : EndsAs r t) :
    t.life = .done ∨ t.life = .failed := by
  cases r with
  | ok o => exact .inl h.1
  | error e => exact .inr h.1

/-- Entering a failure ends a conversion as a `Convert` that fails so in the component at PHASE (R211, R240). -/
theorem endsAs_raise (k : FailKind) (i : Nat) (s : State) : EndsAs (.error ⟨k, s.phase, i⟩) (raise k i s) :=
  ⟨rfl, rfl, rfl, rfl, rfl, (raise_failedFrom k i s).cleared⟩

/-- What a run needs of a conversion in progress that the host leaves alone. -/
structure InProgress (s : State) : Prop where
  busy : s.life = .busy
  alone : s.host = []
  err : s.err = none
  errIdx : s.errIdx = 0
  imgW : 1 ≤ s.imgW
  imgH : 1 ≤ s.imgH
  start : s.phase = .split → Cleared s
  position : ∃ i, AtPosition s i

/-- What an operation of a conversion in progress leads to: the end that `Convert` gives, or a position from which it
gives the same with fewer operations left. -/
def Advances (s t : State) : Prop :=
  EndsAs s.remaining t ∨ (InProgress t ∧ t.remaining = s.remaining ∧ t.operationsLeft < s.operationsLeft)

section operations

variable {s t : State}

/-- An operation that goes on leaves the conversion in progress, at its new position. -/
theorem InProgress.next {i : Instr} (h : InProgress s) (same : SameInputs s t)
    (state : (t.life, t.err, t.errIdx) = (s.life, s.err, s.errIdx)) (after : t.phase ≠ .split) (hi : AtPosition t i) :
    InProgress t := by
  simp only [Prod.mk.injEq] at state
  obtain ⟨life, err, errIdx⟩ := state
  exact ⟨life.trans h.busy, same.host.trans h.alone, err.trans h.err, errIdx.trans h.errIdx, same.imgW ▸ h.imgW,
    same.imgH ▸ h.imgH, fun split => absurd split after, i, hi⟩

theorem advances_raise {k : FailKind} {i : Nat} (h : s.remaining = .error ⟨k, s.phase, i⟩) :
    Advances s (raise k i s) := by
  refine .inl ?_
  rw [h]
  exact endsAs_raise k i s

/-- A splitter advances when `Convert` splits the image in the same way, into blocks that have pixels. -/
theorem advances_storeSplit {r : Except FailKind (Nat × Nat)} {i : Instr} (h : InProgress s) (hp : s.phase = .split)
    (same : SameInputs s (storeSplit r s)) (hi : ∀ n b, AtPosition (storeSplit (.ok (n, b)) s) i)
    (error : ∀ k, r = .error k → s.remaining = .error ⟨k, .split, 0⟩)
    (ok : ∀ n b, r = .ok (n, b) →
      n ≤ s.imgW * s.imgH ∧ (storeSplit (.ok (n, b)) s).remaining = s.remaining) : Advances s (storeSplit r s) := by
  cases hr : r with
  | error k => exact advances_raise (hp ▸ error k hr)
  | ok nb =>
    obtain ⟨few, rest⟩ := ok nb.1 nb.2 hr
    rw [hr] at same
    refine .inr ⟨h.next same rfl nofun (hi nb.1 nb.2), rest, ?_⟩
    rw [operationsLeft_split hp]
    exact operationsLeft_lt_of_nblk_le nofun few (Nat.mul_pos h.imgW h.imgH)

theorem advances_execSplitS (h : InProgress s) (hm : s.mode = .sprite) (hp : s.phase = .split)
    (ht : execSplitS s = .next t) : Advances s t := by
  have same : SameInputs s t := exec_sameInputs (i := .splitS) ht
  cases ht
  have rest := remaining_spriteSplit hm hp
  refine advances_storeSplit h hp same (fun _ _ => .resolveS hm rfl)
    (fun k split => rest.trans (convertSprite_of_split_error split)) fun n b split => ?_
  obtain ⟨pos, few⟩ := splitSprite_count split h.imgW h.imgH
  refine ⟨few, ?_⟩
  rw [rest]
  cases resolved : resolveSprite (imageColours s) (tcOperand s) (scOperand s) with
  | error k =>
    rw [convertSprite_of_unresolved (c := s.convConfig) split resolved]
    exact remaining_spriteResolve_error hm rfl resolved
  | ok u =>
    rw [convertSprite_of_resolved (c := s.convConfig) split resolved]
    refine (remaining_spriteResolve_ok (s := storeSplit (.ok (n, b)) s) hm rfl resolved).trans ?_
    rw [zero_cons_blocksAfter rfl rfl pos]
    show (convertFrames (pixRead s) s.imgH (ColorTable.ofList u) (List.range n) s.pixStage).map
      (fun pix => ConvOutput.mk [] pix n b (ColorTable.ofList u) s.fg) = _
    rw [(h.start hp).pixStage, (h.start hp).fg]
    rfl

theorem advances_execSplitT (h : InProgress s) (hm : s.mode = .tileset) (hp : s.phase = .split)
    (ht : execSplitT s = .next t) : Advances s t := by
  have same : SameInputs s t := exec_sameInputs (i := .splitT) ht
  cases ht
  have rest := remaining_tileSplit hm hp
  refine advances_storeSplit h hp same (fun _ _ => .resolveT hm rfl)
    (fun k split => rest.trans (convertTileset_of_split_error split)) fun n b split => ?_
  obtain ⟨pos, few⟩ := splitTileset_count split h.imgW h.imgH
  refine ⟨few, ?_⟩
  rw [rest, convertTileset_of_split (c := s.convConfig) split]
  refine (remaining_tileResolve (s := storeSplit (.ok (n, b)) s) hm rfl).trans ?_
  rw [show (storeSplit (.ok (n, b)) s).blk = 0 from rfl, zero_cons_blocksAfter rfl rfl pos]
  show (convertTiles s.convConfig (pixRead s) (List.range n) ⟨s.attrStage, s.pixStage, n, b, s.ct, s.fg⟩).map
    (fun o => { o with attrOut := if s.attrEn then o.attrOut else [] }) = _
  rw [(h.start hp).attrStage, (h.start hp).pixStage, (h.start hp).ct, (h.start hp).fg]
  rfl

theorem advances_execResolveS (h : InProgress s) (hm : s.mode = .sprite) (hp : s.phase = .resolve)
    (ht : execResolveS s = .next t) : Advances s t := by
  have same : SameInputs s t := exec_sameInputs (i := .resolveS) ht
  rcases execResolveS_cases s with ⟨k, unresolved, e⟩ | ⟨u, resolved, e⟩ <;> cases e.symm.trans ht
  · exact advances_raise (hp ▸ remaining_spriteResolve_error hm hp unresolved)
  · refine .inr ⟨h.next same rfl nofun (.packS hm rfl), ?_, ?_⟩
    · rw [remaining_spriteResolve_ok hm hp resolved, remaining_spritePack (same.mode.trans hm) rfl]
      rfl
    · rw [operationsLeft_spriteResolve hm hp, operationsLeft_spritePack (same.mode.trans hm) rfl]
      exact Nat.lt_succ_self _

theorem advances_execResolveT (h : InProgress s) (hm : s.mode = .tileset) (hp : s.phase = .resolve)
    (ht : execResolveT s = .next t) : Advances s t := by
  have same : SameInputs s t := exec_sameInputs (i := .resolveT) ht
  have rest := remaining_tileResolve hm hp
  rcases execResolveT_foreground s with ⟨k, unresolved, e⟩ | ⟨tset, ns, fg, resolved, e⟩ <;> cases e.symm.trans ht
  · exact advances_raise (hp ▸ rest.trans (withTiles_cons_error unresolved _))
  · refine .inr ⟨h.next same rfl nofun (.packT hm rfl),
      (remaining_resolvedTile hm resolved tset ns).trans rest.symm, ?_⟩
    rw [operationsLeft_tileResolve hm hp, operationsLeft_tilePack (same.mode.trans hm) rfl]
    exact Nat.lt_succ_self _

theorem advances_execPackS (h : InProgress s) (hm : s.mode = .sprite) (hp : s.phase = .pack)
    (ht : execPack .sprite s = .next t) : Advances s t := by
  have same : SameInputs s t := exec_sameInputs (i := .pack .sprite) ht
  rcases execPack_cases .sprite s with ⟨unpacked, e⟩ | ⟨bytes, packed, e⟩ <;> cases e.symm.trans ht
  · exact advances_raise (hp ▸ (remaining_spritePack hm hp).trans (withFrames_cons_none unpacked _))
  · have rest : s.remaining = (appendPix s bytes).withFrames (appendPix s bytes).blocksAfter :=
      (remaining_spritePack hm hp).trans (withFrames_cons_some packed _)
    rcases afterPack_cases .sprite (appendPix s bytes) with ⟨-, more, e⟩ | ⟨-, last, e⟩ | ⟨hc, -⟩
    · rw [e] at same ⊢
      refine .inr ⟨h.next same rfl nofun (.packS hm rfl), ?_, ?_⟩
      · rw [rest, blocksAfter_of_more more .pack]
        exact remaining_spritePack hm rfl
      · rw [operationsLeft_spritePack hm hp, operationsLeft_spritePack (same.mode.trans hm) rfl]
        exact Nat.succ_lt_succ (Nat.sub_succ_lt_self _ _ more)
    · rw [e] at same ⊢
      refine .inr ⟨h.next same rfl nofun (.emitS hm rfl), ?_, ?_⟩
      · rw [rest, blocksAfter_of_last last]
        exact remaining_spriteEmit hm rfl
      · rw [operationsLeft_spritePack hm hp, operationsLeft_emit rfl]
        exact Nat.succ_pos _
    · cases hc

theorem advances_execPackT (h : InProgress s) (hm : s.mode = .tileset) (hp : s.phase = .pack)
    (ht : execPack .tileset s = .next t) : Advances s t := by
  have same : SameInputs s t := exec_sameInputs (i := .pack .tileset) ht
  rcases execPack_cases .tileset s with ⟨unpacked, e⟩ | ⟨bytes, packed, e⟩ <;> cases e.symm.trans ht
  · exact advances_raise (hp ▸ remaining_tilePack_none hm hp unpacked)
  · refine .inr ⟨h.next same rfl nofun (.attr hm rfl), ?_, ?_⟩
    · rw [remaining_tilePack_some hm hp packed]
      exact remaining_tileAttr hm rfl
    · rw [operationsLeft_tilePack hm hp, operationsLeft_tileAttr (same.mode.trans hm) rfl]
      exact Nat.lt_succ_self _

theorem advances_execAttr (h : InProgress s) (hm : s.mode = .tileset) (hp : s.phase = .attr)
    (ht : execAttr s = .next t) : Advances s t := by
  have same : SameInputs s t := exec_sameInputs (i := .attr) ht
  cases ht
  have rest : s.remaining = (appendAttr s (attrByte s.fg)).withTiles (appendAttr s (attrByte s.fg)).blocksAfter :=
    remaining_tileAttr hm hp
  rcases afterAttr_cases (appendAttr s (attrByte s.fg)) with ⟨more, e⟩ | ⟨last, e⟩ <;> rw [e] at same ⊢
  · refine .inr ⟨h.next same rfl nofun (.resolveT hm rfl), ?_, ?_⟩
    · rw [rest, blocksAfter_of_more more .resolve]
      exact remaining_tileResolve hm rfl
    · rw [operationsLeft_tileAttr hm hp, operationsLeft_tileResolve (same.mode.trans hm) rfl]
      show 3 * (s.nblk - (s.blk + 1 + 1)) + 3 < 3 * (s.nblk - (s.blk + 1)) + 1
      have : s.blk + 1 < s.nblk := more
      omega
  · refine .inr ⟨h.next same rfl nofun (.emitT hm rfl), ?_, ?_⟩
    · rw [rest, blocksAfter_of_last last]
      exact remaining_tileEmit hm rfl
    · rw [operationsLeft_tileAttr hm hp, operationsLeft_emit rfl]
      exact Nat.succ_pos _

/-- A commit ends the conversion with the output it commits (R190, R191). -/
theorem advances_commit {l : List Byte} (h : InProgress s)
    (rest : s.remaining = .ok ⟨l, s.pixStage, s.nblk, s.bpb, s.ct, s.fg⟩) : Advances s (commit l s) := by
  refine .inl ?_
  rw [rest]
  exact ⟨rfl, rfl, rfl, h.err, h.errIdx, rfl, rfl, rfl, rfl, rfl, rfl, rfl, rfl⟩

/-- The operation of every position advances the conversion. -/
theorem advances_operation {i : Instr} (h : InProgress s) (hi : AtPosition s i) :
    ∃ t, exec i s = .next t ∧ Advances s t := by
  cases hi with
  | splitS hm hp => exact ⟨_, rfl, advances_execSplitS h hm hp rfl⟩
  | splitT hm hp => exact ⟨_, rfl, advances_execSplitT h hm hp rfl⟩
  | resolveS hm hp => exact ⟨_, rfl, advances_execResolveS h hm hp rfl⟩
  | resolveT hm hp => exact ⟨_, rfl, advances_execResolveT h hm hp rfl⟩
  | packS hm hp => exact ⟨_, rfl, advances_execPackS h hm hp rfl⟩
  | packT hm hp => exact ⟨_, rfl, advances_execPackT h hm hp rfl⟩
  | attr hm hp => exact ⟨_, rfl, advances_execAttr h hm hp rfl⟩
  | emitS hm hp => exact ⟨_, rfl, advances_commit h (remaining_spriteEmit hm hp)⟩
  | emitT hm hp => exact ⟨_, rfl, advances_commit h (remaining_tileEmit hm hp)⟩

end operations

/-! ### The run from CONV -/

theorem selected_of_atPosition {s : State} {i : Instr} (h : AtPosition s i) : decodeSelector (selector s) = .ok i := by
  rw [decodeSelector_selector]
  cases h <;> simp only [*]

/-- A conversion in progress runs to the end that `Convert` gives, in at most one operation more than those left before
the last. -/
theorem InProgress.run_ends {s : State} (h : InProgress s) :
    ∃ n t, n ≤ s.operationsLeft + 1 ∧ core.run n s = .next t ∧ SameInputs s t ∧ EndsAs s.remaining t := by
  induction left : s.operationsLeft using Nat.strong_induction_on generalizing s with
  | _ m ih =>
    obtain ⟨i, hi⟩ := h.position
    obtain ⟨t, runs, advances⟩ := advances_operation h hi
    have first : step s = .next t := (step_busy h.alone h.busy (selected_of_atPosition hi)).trans runs
    have same : SameInputs s t := exec_sameInputs runs
    rcases advances with ends | ⟨goesOn, rest, fewer⟩
    · exact ⟨1, t, by omega, run_succ 0 first, same, ends⟩
    · obtain ⟨n, u, bound, run, same', ends⟩ := ih _ (left ▸ fewer) goesOn rfl
      exact ⟨n + 1, u, by omega, (run_succ n first).trans run, same.trans same', rest ▸ ends⟩

/-- CONV puts the block at the start of what `Convert` says (R205, R211). -/
theorem startConversion_remaining (s : State) :
    (startConversion s).remaining = convert s.convConfig (pixRead s) := by
  unfold convert
  cases hm : s.mode with
  | sprite =>
    rw [show s.convConfig.mode = .sprite from hm]
    exact remaining_spriteSplit hm rfl
  | tileset =>
    rw [show s.convConfig.mode = .tileset from hm]
    exact remaining_tileSplit hm rfl

theorem LegalConfig.imgW_pos {s : State} (h : LegalConfig s) : 1 ≤ s.imgW := h.1

theorem LegalConfig.imgH_pos {s : State} (h : LegalConfig s) : 1 ≤ s.imgH := h.2.1

theorem startConversion_inProgress {s : State} (alone : s.host = []) (legal : LegalConfig s) :
    InProgress (startConversion s) where
  busy := rfl
  alone := alone
  err := rfl
  errIdx := rfl
  imgW := legal.imgW_pos
  imgH := legal.imgH_pos
  start _ := startConversion_cleared s
  position := by
    cases hm : s.mode with
    | sprite => exact ⟨_, .splitS hm rfl⟩
    | tileset => exact ⟨_, .splitT hm rfl⟩

/-- Settles O45: CONV's step leads to a conversion in progress that still gives the whole of `Convert`. -/
theorem conversionEndsAsConvertSays : Obligations.ConversionEndsAsConvertSays := by
  intro s hl hq legal
  set s0 : State := { s with host := [] }
  have runs : exec .conv s0 = .next (startConversion s0) := execConv_of_legal (s := s0) hl legal
  have first : step s = .next (startConversion s0) :=
    (commandWriteRunsTheCommand s [] 1 .conv hq hl rfl).trans runs
  obtain ⟨n, t, bound, run, same, ends⟩ := (startConversion_inProgress (s := s0) rfl legal).run_ends
  rw [startConversion_remaining] at ends
  exact ⟨n + 1, t, Nat.succ_le_succ bound, (run_succ n first).trans run, (exec_sameInputs runs).trans same, ends⟩

/-! ### The run from any position -/

/-- Past the split there are no more blocks than pixels (R120, R122). -/
theorem BusyInv.nblk_le {s : State} (h : BusyInv s) (hp : s.phase ≠ .split) : s.nblk ≤ s.imgW * s.imgH := by
  have sprite (grid : SpriteGrid s) : s.nblk ≤ s.imgW * s.imgH := by
    obtain ⟨hw, -⟩ := grid
    exact (show s.nblk ≤ s.imgW by omega).trans (Nat.le_mul_of_pos_right _ h.legal.imgH_pos)
  have tiles (grid : TileGrid s) : s.nblk ≤ s.imgW * s.imgH := by
    obtain ⟨-, -, nblk, -⟩ := grid
    exact nblk ▸ Nat.mul_le_mul (Nat.div_le_self _ 4) (Nat.div_le_self _ 8)
  cases hm : s.mode with
  | sprite =>
    obtain ⟨-, -, position⟩ := h.sprite hm
    cases phase : s.phase with
    | split => exact absurd phase hp
    | none | attr => simp [phase] at position
    | resolve | pack | emit => simp only [phase] at position; exact sprite position.1
  | tileset =>
    obtain ⟨-, position⟩ := h.tileset hm
    cases phase : s.phase with
    | split => exact absurd phase hp
    | none => simp [phase] at position
    | resolve | pack | attr | emit => simp only [phase] at position; exact tiles position.1

/-- A conversion that stands at the split has nothing computed (R205). -/
theorem BusyInv.cleared {s : State} (h : BusyInv s) (hp : s.phase = .split) : Cleared s := by
  cases hm : s.mode with
  | sprite =>
    obtain ⟨-, -, position⟩ := h.sprite hm
    simp only [hp] at position
    exact position.2
  | tileset =>
    obtain ⟨-, position⟩ := h.tileset hm
    simp only [hp] at position
    exact position.2

theorem BusyInv.inProgress {s : State} (h : BusyInv s) (busy : s.life = .busy) (alone : s.host = []) :
    InProgress s where
  busy := busy
  alone := alone
  err := h.err
  errIdx := h.errIdx
  imgW := h.legal.imgW_pos
  imgH := h.legal.imgH_pos
  start := h.cleared
  position := h.selects.imp fun _ => atPosition_of_selected

/-- Settles O46: the run of a conversion in progress is bounded by the operations left, and there are no more blocks
than pixels. -/
theorem everyConversionEnds : Obligations.EveryConversionEnds := by
  intro s inv busy alone
  have h := (inv.busy busy).inProgress busy alone
  obtain ⟨n, t, bound, run, -, ends⟩ := h.run_ends
  refine ⟨n, t, bound.trans (Nat.succ_le_succ ?_), run, ends.life⟩
  by_cases hp : s.phase = .split
  · exact (operationsLeft_split hp).le
  · exact (operationsLeft_lt_of_nblk_le hp ((inv.busy busy).nblk_le hp) (Nat.mul_pos h.imgW h.imgH)).le

end Sys2Proof.Machine
end

section
/-! PROOFS. Failures: the index each operation records with its kind, how FAILED is left, and which failure of several a
tileset conversion reports (spec/60_exceptions.md R230, R239, R240, R242). -/

namespace Sys2Proof.Machine

/-! ### The kinds and their index -/

/-- The index that the block records with a failure of kind `k` (R230, column `ERRIDX`). -/
def State.failureIndex (s : State) (k : FailKind) : Nat := if k.perBlock then s.blk else 0

theorem failureIndex_of_perBlock {k : FailKind} (h : k.perBlock = true) (s : State) : s.failureIndex k = s.blk := if_pos h

theorem failureIndex_of_not_perBlock {k : FailKind} (h : k.perBlock = false) (s : State) : s.failureIndex k = 0 :=
  if_neg (Bool.eq_false_iff.1 h)

theorem perBlock_of_splitSprite_error {w h : Nat} {k : FailKind} (e : splitSprite w h = .error k) :
    k.perBlock = false := by
  rcases splitSprite_cases w h with ⟨-, r⟩ | ⟨-, -, r⟩ <;> cases r.symm.trans e
  rfl

theorem perBlock_of_splitTileset_error {w h : Nat} {k : FailKind} (e : splitTileset w h = .error k) :
    k.perBlock = false := by
  rcases splitTileset_cases w h with ⟨-, r⟩ | ⟨-, -, -, r⟩ | ⟨-, -, -, r⟩ <;> cases r.symm.trans e <;> rfl

theorem perBlock_of_resolveSprite_error {l : List Idx} {tc sc : Option Idx} {k : FailKind}
    (e : resolveSprite l tc sc = .error k) : k.perBlock = false := by
  rcases resolveSprite_error e with rfl | rfl <;> rfl

theorem perBlock_of_resolveTile_error {ns : List Idx} {k : FailKind} (e : resolveTile ns = .error k) :
    k.perBlock = true := by
  rcases resolveTile_error e with rfl | rfl <;> rfl

/-! ### Entering a failure -/

section operations

variable {s t : State}

/-- A splitter that ends in FAILED raised its failure with index 0 (R120, R122). -/
theorem raised_of_storeSplit_failed {r : Except FailKind (Nat × Nat)} (going : s.life ≠ .failed)
    (noBlock : ∀ k, r = .error k → k.perBlock = false) (failed : (storeSplit r s).life = .failed) :
    ∃ k, storeSplit r s = raise k (s.failureIndex k) s := by
  rcases storeSplit_cases r s with ⟨k, hk, e⟩ | ⟨n, b, -, e⟩ <;> rw [e] at failed ⊢
  · exact ⟨k, by rw [failureIndex_of_not_perBlock (noBlock k hk)]⟩
  · exact absurd failed going

/-- An operation of a BUSY block that ends in FAILED raised a failure with the index of its kind (R230, R240). -/
theorem raised_of_exec_failed {i : Instr} (busy : s.life = .busy) (runs : exec i s = .next t)
    (failed : t.life = .failed) : ∃ k, t = raise k (s.failureIndex k) s := by
  have going : s.life ≠ .failed := by simp [busy]
  cases i with
  | conv => cases (execConv_of_busy busy).symm.trans runs; exact absurd failed going
  | clr => cases (execClr_of_busy busy).symm.trans runs; exact absurd failed going
  | splitS => cases runs; exact raised_of_storeSplit_failed going (fun _ => perBlock_of_splitSprite_error) failed
  | splitT => cases runs; exact raised_of_storeSplit_failed going (fun _ => perBlock_of_splitTileset_error) failed
  | resolveS =>
    rcases execResolveS_cases s with ⟨k, hk, e⟩ | ⟨_, -, e⟩ <;> cases e.symm.trans runs
    · exact ⟨k, by rw [failureIndex_of_not_perBlock (perBlock_of_resolveSprite_error hk)]⟩
    · exact absurd failed going
  | resolveT =>
    rcases execResolveT_foreground s with ⟨k, hk, e⟩ | ⟨_, _, _, -, e⟩ <;> cases e.symm.trans runs
    · exact ⟨k, by rw [failureIndex_of_perBlock (perBlock_of_resolveTile_error hk)]⟩
    · exact absurd failed going
  | pack m =>
    rcases execPack_cases m s with ⟨-, e⟩ | ⟨bytes, -, e⟩ <;> cases e.symm.trans runs
    · exact ⟨.colorNotInTable, rfl⟩
    · exact absurd ((afterPack_life m (appendPix s bytes)).symm.trans failed) going
  | attr =>
    cases runs
    rcases afterAttr_cases (appendAttr s (attrByte s.fg)) with ⟨-, e⟩ | ⟨-, e⟩ <;> rw [e] at failed <;>
      exact absurd failed going
  | emitS => cases runs; cases failed
  | emitT => cases runs; cases failed

end operations

/-- Settles O36: every failure is entered by `raise`, whose whole effect is `raise_failedFrom`. -/
theorem failureEntryDiscardsEverything : Obligations.FailureEntryDiscardsEverything := by
  refine ⟨raise_failedFrom, fun s failed => sequencerTurn_of_not_busy (by simp [failed]), ?_⟩
  intro i s t busy runs failed
  obtain ⟨k, rfl⟩ := raised_of_exec_failed busy runs failed
  have entry := raise_failedFrom k (s.failureIndex k) s
  exact ⟨k, entry, congrFun₂ entry.inputs.pixRead⟩

/-! ### Leaving FAILED -/

/-- Settles O37: a step that leaves FAILED sets STATE, and for a block that is not BUSY only the two commands and reset do
(R27). -/
theorem failedIsLeftOnlyByCommandOrReset : Obligations.FailedIsLeftOnlyByCommandOrReset := by
  intro s t failed ht left
  obtain ⟨byConv, byEmit, -, byClrOrReset⟩ := stateIsSetOnlyByItsCauses s t ht (failed ▸ left)
  cases life : t.life with
  | idle =>
    rcases byClrOrReset life with ⟨v, q, hq, code⟩ | reset
    · exact .inl ⟨v, q, hq, .inr code⟩
    · exact .inr reset
  | busy =>
    obtain ⟨v, q, hq, code⟩ := byConv life
    exact .inl ⟨v, q, hq, .inl code⟩
  | done => cases failed.symm.trans (byEmit life).1
  | failed => exact absurd life left

/-! ### The first failure of a tileset conversion -/

section tiles

variable {c : ConvConfig} {g : Nat → Nat → Idx} {e : ConvFailure}

/-- A tile's failure, in either component, is recorded with the tile's number (R230). -/
theorem convertTile_error_idx {k : Nat} (failed : convertTile c g k = .error e) : e.idx = k := by
  rcases convertTile_cases c g k with ⟨_, -, r⟩ | ⟨_, -, -, r⟩ | ⟨_, _, -, -, r⟩ <;> cases r.symm.trans failed <;> rfl

/-- The tileset loop of `Convert` fails with the first listed tile that fails (R211: "stopping at the first failure"). -/
theorem convertTiles_eq_error {ks : List Nat} {acc : ConvOutput} (failed : convertTiles c g ks acc = .error e) :
    ∃ before k after, ks = before ++ k :: after ∧ convertTile c g k = .error e ∧
      ∀ j ∈ before, ∃ r, convertTile c g j = .ok r := by
  induction ks generalizing acc with
  | nil => cases failed
  | cons k l ih =>
    cases tile : convertTile c g k with
    | error e' =>
      cases (convertTiles_cons_error l acc tile).symm.trans failed
      exact ⟨[], k, l, rfl, tile, nofun⟩
    | ok r =>
      rw [convertTiles_cons_ok l acc tile] at failed
      obtain ⟨before, k', after, rfl, tile', earlier⟩ := ih failed
      exact ⟨k :: before, k', after, rfl, tile', List.forall_mem_cons.2 ⟨⟨r, tile⟩, earlier⟩⟩

/-- In tile-scan order the tiles listed before tile `k` are those of a lower number (R123). -/
theorem range_split {n k : Nat} {before after : List Nat} (h : List.range n = before ++ k :: after) :
    k < n ∧ before = List.range k := by
  rw [List.range_eq_range', List.range'_eq_append_iff] at h
  obtain ⟨m, -, rfl, rest⟩ := h
  obtain ⟨first, inside, -⟩ := List.range'_eq_cons_iff.1 rest.symm
  obtain rfl : m = k := by omega
  exact ⟨by omega, List.range_eq_range'.symm⟩

/-- Past the split a tileset conversion fails as its loop does (R211). -/
theorem convertTiles_of_convertTileset_error {n b : Nat} (split : splitTileset c.w c.h = .ok (n, b))
    (failed : convertTileset c g = .error e) :
    convertTiles c g (List.range n) ⟨[], [], n, b, ⟨0, 0, 0, 0⟩, 0⟩ = .error e := by
  rw [convertTileset_of_split split] at failed
  cases loop : convertTiles c g (List.range n) ⟨[], [], n, b, ⟨0, 0, 0, 0⟩, 0⟩ with
  | error e' => rw [loop] at failed; cases failed; rfl
  | ok o => rw [loop] at failed; cases failed

end tiles

/-- Settles O49: the size and the count are checked before any pixel is read, and the loop over the tiles stops at the
first one that fails. -/
theorem firstFailureIsReported : Obligations.FirstFailureIsReported := by
  intro c g tileset
  have arm : convert c g = convertTileset c g := by simp only [convert, tileset]
  rw [arm]
  refine ⟨fun inexact => convertTileset_of_split_error (splitTileset_of_inexact inexact),
    fun hw hh many => convertTileset_of_split_error ((splitTileset_of_exact hw hh).trans (if_pos many)),
    fun e hw hh few failed => ?_⟩
  have split := (splitTileset_of_exact hw hh).trans (if_neg (Nat.not_lt.2 few))
  obtain ⟨before, k, after, listed, tile, earlier⟩ :=
    convertTiles_eq_error (convertTiles_of_convertTileset_error split failed)
  obtain ⟨inside, rfl⟩ := range_split listed
  obtain rfl := convertTile_error_idx tile
  exact ⟨inside, tile, fun j lower => earlier j (List.mem_range.2 lower)⟩

end Sys2Proof.Machine
end

section
/-! PROOFS. Reset, which may come at any moment, and the write to PIX that the model refuses
(spec/70_reset_and_hazards.md R260, R263). -/

namespace Sys2Proof.Machine

/-! ### Reset -/

/-- What reset keeps (the configuration of the instance, the moves to come, the bus) is in no register. -/
theorem readReg_resetBlock (s : State) (n : Nat) : readReg (resetBlock s) n = readReg State.reset n := rfl

theorem resetBlock_cleared (s : State) : Cleared (resetBlock s) :=
  ⟨rfl, rfl, rfl, rfl, rfl, rfl, rfl, rfl, rfl, rfl, rfl, rfl, rfl⟩

/-- A block that is not BUSY does nothing of its own (R25). -/
theorem step_of_quiet {s : State} (alone : s.host = []) (notBusy : s.life ≠ .busy) : step s = .next s :=
  (step_nil alone).trans (sequencerTurn_of_not_busy notBusy)

/-- Settles O9: whatever the state was, reset leaves the registers of the reset state, and the block it leaves is IDLE, so
with no move left it is quiet. -/
theorem resetAbandonsTheConversion : Obligations.ResetAbandonsTheConversion := by
  intro s q hq
  have idle : (resetBlock { s with host := q }).life ≠ .busy := nofun
  have zero (n : Nat) : readReg (resetBlock { s with host := q }) n = 0 :=
    (readReg_resetBlock _ n).trans (resetStateIsAllZero.1 n)
  exact ⟨resetBlock { s with host := q }, step_eq_hostTurn hq, rfl, rfl, rfl, rfl, rfl, resetBlock_cleared _, zero,
    rfl, rfl, rfl, fun alone => step_of_quiet alone idle⟩

/-! ### A write to PIX while BUSY -/

theorem hostTurn_pix_of_busy {s : State} (busy : s.life = .busy) (x y : Nat) (v : Idx) :
    hostTurn (.pix x y v) s = .refused .pixWriteWhileBusy := if_pos busy

/-- Settles O16: taking the move off the list leaves STATE as it was, so the write still meets a BUSY block. -/
theorem pixWriteWhileBusyIsRefused : Obligations.PixWriteWhileBusyIsRefused := by
  intro s q x y v hq busy
  exact (step_eq_hostTurn hq).trans (hostTurn_pix_of_busy (s := { s with host := q }) busy x y v)

end Sys2Proof.Machine
end
